-- ==== Sys2Proof/Word.lean ====
section
/-! DEFINITION. The words of the engine: a state word of 32 bits, a table index of 14 bits, a command word of 128 bits
and a response of 64 bits (00_scope.md R8, R10; 30_encoding.md R51). -/

namespace Sys2Proof

/-- A word: 32 bits, bit 31 the most significant (R8, R10). -/
abbrev Word := BitVec 32

/-- A table index: 14 bits (R8, R32). -/
abbrev Index := BitVec 14

/-- A command word, `cmd_word` (R51, R53). -/
abbrev CmdWord := BitVec 128

/-- The data of a response, `rsp_data` (R51, R66). -/
abbrev Rsp := BitVec 64

end Sys2Proof
end

