-- ==== Sys2Proof/Config.lean ====
section
/-! DEFINITION. What an implementation fixes and the spec leaves open: the six words after reset. -/

namespace Sys2Proof

/-- The six words RESET_WORDS[0..5], in selector order (00_scope.md R9; 10_state.md R30). -/
structure ResetWords where
  s1 : Word
  s2 : Word
  s3 : Word
  out : Word
  prev : Word
  pprev : Word
  deriving DecidableEq, Repr

/-- DESIGN CHOICE, unsafe, entry 1: the spec gives RESET_WORDS no value (R30, D6, N3), and the model names 0 for each. No
statement may rest on the value: statements are for every `ResetWords`. -/
def Config.resetWords : ResetWords := ⟨0, 0, 0, 0, 0, 0⟩

end Sys2Proof
end

