-- ==== Sys2Proof/Syntax.lean ====
section
/-! DEFINITION. The nine commands of spec/opcode_table.json as syntax, each with its operands as the command word holds
them (30_encoding.md R55 to R65). -/

namespace Sys2Proof

/-- A command. The operands are unsigned fields of the command word, neither extended nor scaled (R65). -/
inductive Instr where
  /-- SEED, op 0x01 (R56, R95): `a0` is the seed word of `s1`, `a1` of `s2`, `a2` of `s3`. -/
  | seed (a0 a1 a2 : Word)
  /-- NEXT, op 0x02 (R57, R86). -/
  | next
  /-- U01, op 0x03 (R58, R113). -/
  | u01
  /-- F53, op 0x04 (R59, R115). -/
  | f53
  /-- BND, op 0x05 (R60, R117): `limit` is the whole of `a0`. -/
  | bnd (limit : Word)
  /-- BITS, op 0x06 (R61, R118): `n` is `a0[7:0]`. -/
  | bits (n : BitVec 8)
  /-- BIT, op 0x07 (R62, R119). -/
  | bit
  /-- RDST, op 0x08 (R63, R124): `sel` is `a0[2:0]`; 6 and 7 spell no command (R68). -/
  | rdst (sel : BitVec 3)
  /-- RDTB, op 0x09 (R64, R125): `index` is `a0[13:0]`. -/
  | rdtb (index : Index)
  deriving DecidableEq, Repr

end Sys2Proof
end

