-- ==== Sys2Proof/WellFormed.lean ====
section
/-! DEFINITION. Which terms of `Instr` are commands. Every operand fills its field of the command word, so the one check
is the selector of RDST (30_encoding.md R63, R68). Operands that decode and then fault (BND 0, BITS 0, BITS 32 and more)
are well formed (R60, R61). -/

namespace Sys2Proof

/-- The check of R63: selectors 0 to 5 are legal, 6 and 7 are reserved. -/
def selectorOk (sel : BitVec 3) : Bool := sel.toNat ≤ 5

/-- A term that spells a command. -/
def Instr.wellFormed : Instr → Bool
  | .seed _ _ _ => true
  | .next => true
  | .u01 => true
  | .f53 => true
  | .bnd _ => true
  | .bits _ => true
  | .bit => true
  | .rdst sel => selectorOk sel
  | .rdtb _ => true

end Sys2Proof
end

