-- ==== Sys2Proof/Decode.lean ====
section
/-! DEFINITION. The decoder of a 128-bit command word, total, refusing by name; and the encoder beside it
(30_encoding.md R53 to R65, R68). The opcode table's match and mask rows stand here a second time, as data, for
statements that hold the decoder against them. -/

namespace Sys2Proof

/-- Why a command word spells no command (R68). -/
inductive DecodeError where
  /-- `op` is 0x00 or 0x0A to 0xFF. -/
  | reservedOpcode
  /-- `rsv` is not 0. -/
  | reservedBits
  /-- An operand bit that the command does not use is not 0 (R54). -/
  | unusedOperand
  /-- RDST with selector 6 or 7. -/
  | reservedSelector
  deriving DecidableEq, Repr

/-! ## The fields of the one format (R53) -/

/-- `op`, bits 127:120. -/
def opField (w : CmdWord) : BitVec 8 := w.extractLsb' 120 8

/-- `rsv`, bits 119:96. -/
def rsvField (w : CmdWord) : BitVec 24 := w.extractLsb' 96 24

/-- `a2`, bits 95:64. -/
def a2Field (w : CmdWord) : Word := w.extractLsb' 64 32

/-- `a1`, bits 63:32. -/
def a1Field (w : CmdWord) : Word := w.extractLsb' 32 32

/-- `a0`, bits 31:0. -/
def a0Field (w : CmdWord) : Word := w.extractLsb' 0 32

/-- The command word with these fields and `rsv = 0` (R53, R54). -/
def packWord (op : BitVec 8) (a2 a1 a0 : Word) : CmdWord :=
  op ++ (0#24 ++ (a2 ++ (a1 ++ a0)))

/-! ## The decoder -/

/-- The operands of a word whose `op` and `rsv` are legal, for a command that takes none of them (R57 to R59, R62). -/
def decodeNoOperand (i : Instr) (w : CmdWord) : Except DecodeError Instr :=
  if a2Field w = 0 ∧ a1Field w = 0 ∧ a0Field w = 0 then .ok i else .error .unusedOperand

/-- BND's operand: all of `a0` (R60). -/
def decodeBnd (w : CmdWord) : Except DecodeError Instr :=
  if a2Field w = 0 ∧ a1Field w = 0 then .ok (.bnd (a0Field w)) else .error .unusedOperand

/-- BITS's operand: `a0[7:0]`, with `a0[31:8] = 0` (R61). -/
def decodeBits (w : CmdWord) : Except DecodeError Instr :=
  if a2Field w = 0 ∧ a1Field w = 0 ∧ (a0Field w).extractLsb' 8 24 = 0 then
    .ok (.bits ((a0Field w).extractLsb' 0 8))
  else .error .unusedOperand

/-- RDST's operand: `a0[2:0]`, with `a0[31:3] = 0`, and then a selector of 0 to 5 (R63, R68). -/
def decodeRdst (w : CmdWord) : Except DecodeError Instr :=
  if a2Field w = 0 ∧ a1Field w = 0 ∧ (a0Field w).extractLsb' 3 29 = 0 then
    if selectorOk ((a0Field w).extractLsb' 0 3) then .ok (.rdst ((a0Field w).extractLsb' 0 3))
    else .error .reservedSelector
  else .error .unusedOperand

/-- RDTB's operand: `a0[13:0]`, with `a0[31:14] = 0` (R64). -/
def decodeRdtb (w : CmdWord) : Except DecodeError Instr :=
  if a2Field w = 0 ∧ a1Field w = 0 ∧ (a0Field w).extractLsb' 14 18 = 0 then
    .ok (.rdtb ((a0Field w).extractLsb' 0 14))
  else .error .unusedOperand

/-- The operands of a word with the legal opcode `op`, `none` for a reserved `op` (R55). -/
def decodeOperands (op : BitVec 8) (w : CmdWord) : Except DecodeError Instr :=
  if op = 0x01 then .ok (.seed (a0Field w) (a1Field w) (a2Field w))
  else if op = 0x02 then decodeNoOperand .next w
  else if op = 0x03 then decodeNoOperand .u01 w
  else if op = 0x04 then decodeNoOperand .f53 w
  else if op = 0x05 then decodeBnd w
  else if op = 0x06 then decodeBits w
  else if op = 0x07 then decodeNoOperand .bit w
  else if op = 0x08 then decodeRdst w
  else if op = 0x09 then decodeRdtb w
  else .error .reservedOpcode

/-- The decoder: the command a word spells, or why it spells none (R53 to R64, R68). -/
def decode (w : CmdWord) : Except DecodeError Instr :=
  if opField w = 0x00 ∨ 0x0A ≤ (opField w).toNat then .error .reservedOpcode
  else if rsvField w = 0 then decodeOperands (opField w) w
  else .error .reservedBits

/-! ## The encoder -/

/-- The operation code of a command (R55). -/
def Instr.opcode : Instr → BitVec 8
  | .seed _ _ _ => 0x01
  | .next => 0x02
  | .u01 => 0x03
  | .f53 => 0x04
  | .bnd _ => 0x05
  | .bits _ => 0x06
  | .bit => 0x07
  | .rdst _ => 0x08
  | .rdtb _ => 0x09

/-- The one command word of a command (R54, R56 to R64). -/
def encode : Instr → CmdWord
  | .seed a0 a1 a2 => packWord 0x01 a2 a1 a0
  | .next => packWord 0x02 0 0 0
  | .u01 => packWord 0x03 0 0 0
  | .f53 => packWord 0x04 0 0 0
  | .bnd limit => packWord 0x05 0 0 limit
  | .bits n => packWord 0x06 0 0 (n.setWidth 32)
  | .bit => packWord 0x07 0 0 0
  | .rdst sel => packWord 0x08 0 0 (sel.setWidth 32)
  | .rdtb index => packWord 0x09 0 0 (index.setWidth 32)

/-! ## The rows of the opcode table -/

/-- A row's match value: `w AND mask = match` says that `w` spells the row's command (R55 to R64). -/
def Instr.rowMatch : Instr → CmdWord
  | .seed _ _ _ => 0x01000000000000000000000000000000
  | .next => 0x02000000000000000000000000000000
  | .u01 => 0x03000000000000000000000000000000
  | .f53 => 0x04000000000000000000000000000000
  | .bnd _ => 0x05000000000000000000000000000000
  | .bits _ => 0x06000000000000000000000000000000
  | .bit => 0x07000000000000000000000000000000
  | .rdst _ => 0x08000000000000000000000000000000
  | .rdtb _ => 0x09000000000000000000000000000000

/-- A row's mask value (R56 to R64). -/
def Instr.rowMask : Instr → CmdWord
  | .seed _ _ _ => 0xFFFFFFFF000000000000000000000000
  | .next => 0xFFFFFFFFFFFFFFFFFFFFFFFFFFFFFFFF
  | .u01 => 0xFFFFFFFFFFFFFFFFFFFFFFFFFFFFFFFF
  | .f53 => 0xFFFFFFFFFFFFFFFFFFFFFFFFFFFFFFFF
  | .bnd _ => 0xFFFFFFFFFFFFFFFFFFFFFFFF00000000
  | .bits _ => 0xFFFFFFFFFFFFFFFFFFFFFFFFFFFFFF00
  | .bit => 0xFFFFFFFFFFFFFFFFFFFFFFFFFFFFFFFF
  | .rdst _ => 0xFFFFFFFFFFFFFFFFFFFFFFFFFFFFFFF8
  | .rdtb _ => 0xFFFFFFFFFFFFFFFFFFFFFFFFFFFFC000

/-- What the decoder reads from the table's numbering of an instruction's bits: the command word itself, since a command
is one word and bit 0 is its least significant bit (R53). Bits above `nbits` are 0. -/
def decodeTableWord (nbits w : Nat) : Option Instr :=
  match decode (BitVec.ofNat 128 (w % 2 ^ nbits)) with
  | .ok i => some i
  | .error _ => none

end Sys2Proof
end

