-- ==== Sys2Proof/Machine/State.lean ====
section
/-! DEFINITION. The state of one engine instance, as plain data (10_state.md R14), the reasons a step can stop, the
machine right after reset, and the named updates of the state's fields. -/

namespace Sys2Proof.Machine

/-- GeneratorState, the three unit words (R16). -/
structure Gen where
  s1 : Word
  s2 : Word
  s3 : Word
  deriving DecidableEq, Repr

/-- History, the three history words (R17). -/
structure Hist where
  out : Word
  prev : Word
  pprev : Word
  deriving DecidableEq, Repr

/-- The seeder's phase (R21, R71). -/
inductive Phase where
  | idle
  | warm
  | hist
  | fill
  deriving DecidableEq, Repr

/-- The shuffle table (R19, R32) as a list of written slots, (index, word), in one canonical form: indices strictly
rising and below 16384. A slot that is not listed has not been written and has no value (R27). Entry 2. -/
abbrev Memory := List (Nat × Word)

/-- The canonical form of the slots from index `lo` on. -/
def Memory.wfFrom : Nat → Memory → Bool
  | _, [] => true
  | lo, (k, _) :: rest => decide (lo ≤ k) && decide (k < 16384) && Memory.wfFrom (k + 1) rest

/-- The canonical form of a table. -/
def Memory.wf (t : Memory) : Bool := Memory.wfFrom 0 t

/-- What the host does with the input ports `rst`, `cmd_valid` and `cmd_word` (30_encoding.md R51). Entry 4. DESIGN CHOICE,
entry 12: the spec does not say whether a word presented while `rst` is high counts as accepted, and the model's host never
drives `cmd_valid` and `rst` together, so that a reset listed behind a word waits until the word has been accepted. -/
inductive HostAct where
  /-- `cmd_valid = 1` with this `cmd_word`, held until the command is accepted (R52). -/
  | command (w : CmdWord)
  /-- Every input low for one step. -/
  | wait
  /-- `rst = 1` and `cmd_valid = 0` for one step (70_reset_and_hazards.md R143; entry 12). -/
  | reset
  deriving DecidableEq, Repr

/-- The whole state of one engine instance and of its ports. -/
structure State where
  /-- `s1, s2, s3` (R16). -/
  gen : Gen
  /-- `out, prev, pprev` (R17). -/
  hist : Hist
  /-- The shuffle table (R19). -/
  table : Memory
  /-- The seeder's phase (R21). -/
  phase : Phase
  /-- The seeder's count of raw steps within the phase (R21). -/
  cnt : BitVec 14
  /-- Status output: a SEED has run to completion (R22). -/
  seeded : Bool
  /-- Status output: a command is in progress (R22). -/
  busy : Bool
  /-- The output ports `rsp_valid` and `rsp_data`: the response given by the step just made (R51, R66). Entry 5. -/
  rsp : Option Rsp
  /-- The host, as the list of its next actions on the input ports, oldest first (R7, R51). Entry 4. -/
  host : List HostAct
  deriving DecidableEq, Repr

/-- The model-level faults (60_exceptions.md R128). A fault has no next state (R133): safe, entry 7. -/
inductive Fault where
  /-- NEXT, U01, F53, BND, BITS, BIT and RDTB with `seeded = 0`, and a read of a slot that nothing has written (R33,
  R128). Safe: nothing can be proved of an unwritten slot. -/
  | unseeded
  /-- BND with `limit = 0` (R117). Safe. -/
  | limitZero
  /-- BITS with `n = 0` or `n ≥ 32` (R118); the information is `n`. Safe. -/
  | bitsRange (n : BitVec 8)
  deriving DecidableEq, Repr

/-- The reasons a step is refused. -/
inductive Refusal where
  /-- An instruction that has no meaning in this model; raised by `exec` alone. No arm raises it. Safe. -/
  | notModelled (mnemonic : String)
  /-- A command word that spells no command (30_encoding.md R68; 60_exceptions.md R129); raised by `step` on such a
  word, and by RDST's meaning on a selector that no command word spells. Safe: no move, nothing can be proved of it. -/
  | noCommand (why : DecodeError)
  deriving DecidableEq, Repr

/-- The engine right after reset, for given RESET_WORDS (R30, R143): the sequencing state and both flags 0, every slot
unwritten, no response pending, the host doing nothing. -/
def State.resetWith (rw : ResetWords) : State where
  gen := ⟨rw.s1, rw.s2, rw.s3⟩
  hist := ⟨rw.out, rw.prev, rw.pprev⟩
  table := []
  phase := .idle
  cnt := 0
  seeded := false
  busy := false
  rsp := none
  host := []

/-- The machine right after reset (R30). -/
def State.reset : State := State.resetWith Config.resetWords

/-! ## Named updates -/

/-- Write GeneratorState. -/
def State.setGen (s : State) (g : Gen) : State := { s with gen := g }

/-- Write History. -/
def State.setHist (s : State) (h : Hist) : State := { s with hist := h }

/-- Write the table. -/
def State.setTable (s : State) (t : Memory) : State := { s with table := t }

/-- Write the sequencing state, `(phase, cnt) <- (p, c)` (R12). -/
def State.setSeq (s : State) (p : Phase) (c : BitVec 14) : State := { s with phase := p, cnt := c }

/-- Write `seeded`. -/
def State.setSeeded (s : State) (b : Bool) : State := { s with seeded := b }

/-- Write `busy`. -/
def State.setBusy (s : State) (b : Bool) : State := { s with busy := b }

/-- Drive the response port. -/
def State.setRsp (s : State) (r : Option Rsp) : State := { s with rsp := r }

/-- Write the host's list of actions. -/
def State.setHost (s : State) (h : List HostAct) : State := { s with host := h }

end Sys2Proof.Machine
end

