-- ==== Sys2Proof/Machine/Flags.lean ====
section
/-! DEFINITION. The engine has no condition codes (10_state.md R22). Its status outputs are `seeded` and `busy`, fields of
State, and `cmd_ready`, `rsp_valid` and `rsp_data`, computed here; so are the bits of `phase` and the input ports as the
host drives them (30_encoding.md R51, R71). -/

namespace Sys2Proof.Machine

/-- `cmd_ready` equals not `busy` (R51). -/
def cmdReady (s : State) : Bool := !s.busy

/-- `rsp_valid` (R51). -/
def rspValid (s : State) : Bool := s.rsp.isSome

/-- `rst`, as the host drives it (R51). -/
def rstIn (s : State) : Bool :=
  match s.host with
  | .reset :: _ => true
  | _ => false

/-- `cmd_word` while `cmd_valid = 1`, `none` while `cmd_valid = 0` (R51). While `rst` is high it is `none`: DESIGN CHOICE,
entry 12. -/
def cmdIn (s : State) : Option CmdWord :=
  match s.host with
  | .command w :: _ => some w
  | _ => none

/-- `cmd_valid` (R51). -/
def cmdValid (s : State) : Bool := (cmdIn s).isSome

/-- A command is accepted when `cmd_valid = 1` and `cmd_ready = 1` (R52): the word accepted in this state. -/
def accepted (s : State) : Option CmdWord := if cmdReady s then cmdIn s else none

/-- The encoding of `phase` in 2 bits (R21, R71). -/
def phaseBits : Phase → BitVec 2
  | .idle => 0
  | .warm => 1
  | .hist => 2
  | .fill => 3

/-- The code of a model-level fault (R128). -/
def faultCode : Fault → Nat
  | .unseeded => 1
  | .limitZero => 2
  | .bitsRange _ => 3

end Sys2Proof.Machine
end

