-- ==== Sys2Proof/Machine/Params.lean ====
section
/-! DEFINITION. The parameters the spec fixes (00_scope.md R8; 40_feedback_units.md R75). -/

namespace Sys2Proof.Machine

/-- The constants of one feedback unit (R74). -/
structure UnitConsts where
  maskA : Word
  shiftA : Nat
  shiftB : Nat
  shiftC : Nat
  deriving DecidableEq, Repr

/-- Unit 1 (R75). -/
def unit1 : UnitConsts := ⟨0xFFFFFFFE, 12, 13, 19⟩

/-- Unit 2 (R75). -/
def unit2 : UnitConsts := ⟨0xFFFFFFF8, 4, 2, 25⟩

/-- Unit 3 (R75). -/
def unit3 : UnitConsts := ⟨0xFFFFFFF0, 17, 3, 11⟩

/-- `TABLE_SIZE` (R8). -/
def tableSize : Nat := 16384

/-- `INDEX_SHIFT` (R8). -/
def indexShift : Nat := 18

/-- `WARMUP_STEPS` (R8). -/
def warmupSteps : Nat := 128

/-- `HIST_STEPS` (R8). -/
def histSteps : Nat := 3

/-- `FILL_STEPS` (R8). -/
def fillSteps : Nat := 16384

/-- `SEED_STEPS` (R8): all the raw steps of one seeding, 128 + 3 + 16384. -/
def seedSteps : Nat := 16515

/-- `F53_STEPS` (R8). -/
def f53Steps : Nat := 53

end Sys2Proof.Machine
end

