-- ==== Sys2Proof/Machine/Operands.lean ====
section
/-! DEFINITION. Every operand form of the spec: the shifts and the signed reading (00_scope.md R11), the slot a shuffle
step selects (41_shuffle_step.md R86), RDST's selector (10_state.md R15), the magnitude of a draw (43 R112). -/

namespace Sys2Proof.Machine

/-- `shl(a, k)`: bits shifted out at the top are lost (R11). -/
def shl (a : Word) (k : Nat) : Word := a <<< k

/-- `shr(a, k)`: logical, zeros enter at the top (R11). -/
def shr (a : Word) (k : Nat) : Word := a >>> k

/-- `signed_32(a)`, the two's complement reading (R11). -/
def signed32 (a : Word) : Int := if a.toNat < 2 ^ 31 then a.toNat else a.toNat - 2 ^ 32

/-- `pprev[31:18]`, the slot a shuffle step selects (R86, R39). -/
def slotIndex (pprev : Word) : Index := (shr pprev indexShift).setWidth 14

/-- The magnitude of a draw (R112): the absolute value of the signed reading, and the largest magnitude below 2^31 for
the word 0x80000000 (the spec's own decision D9). -/
def mag (x : Word) : Nat := if x = 0x80000000 then 0x7FFFFFFF else (signed32 x).natAbs

/-- `zext_64` of a result word (R12, R66). -/
def zext64 (v : Word) : Rsp := v.setWidth 64

/-- The six named registers (R15). -/
inductive Reg where
  | s1
  | s2
  | s3
  | out
  | prev
  | pprev
  deriving DecidableEq, Repr

/-- The register a selector names; 6 and 7 name none (R15, R63). -/
def regOfSel (sel : BitVec 3) : Option Reg :=
  if sel = 0 then some .s1
  else if sel = 1 then some .s2
  else if sel = 2 then some .s3
  else if sel = 3 then some .out
  else if sel = 4 then some .prev
  else if sel = 5 then some .pprev
  else none

/-- `x[i]`, the value of a register (R12, R15). -/
def readReg (s : State) : Reg → Word
  | .s1 => s.gen.s1
  | .s2 => s.gen.s2
  | .s3 => s.gen.s3
  | .out => s.hist.out
  | .prev => s.hist.prev
  | .pprev => s.hist.pprev

end Sys2Proof.Machine
end

