-- ==== Sys2Proof/Machine/Ops.lean ====
section
/-! DEFINITION. The operations every meaning is built from: the table's two primitives (20_memory.md R33, R34), the three
feedback units and the raw step (40_feedback_units.md R74 to R82), the draw (41 R86, 43 R110), the response (30 R66), the
fault (60 R128), and the reset (70 R143). The hardware takes no exception and returns from none (60 R127, R133, R134): a
fault is the one outcome without a next state, raised here. -/

namespace Sys2Proof.Machine

/-! ## The shuffle table -/

/-- `MemRead(i, 4)`: the slot's word, `none` if nothing has written it (R33). -/
def Memory.read (t : Memory) (i : Index) : Option Word := t.lookup i.toNat

/-- Put word `v` at index `k`, keeping the canonical form. -/
def Memory.put (k : Nat) (v : Word) : Memory → Memory
  | [] => [(k, v)]
  | (j, u) :: rest =>
    if k < j then (k, v) :: (j, u) :: rest
    else if k = j then (k, v) :: rest
    else (j, u) :: Memory.put k v rest

/-- `MemWrite(i, 4, v)` (R34). -/
def Memory.write (t : Memory) (i : Index) (v : Word) : Memory := Memory.put i.toNat v t

/-! ## The feedback units and the raw step -/

/-- The common form `T` of the three units (R74). -/
def feedback (u : UnitConsts) (s : Word) : Word :=
  shl (s &&& u.maskA) u.shiftA ^^^ shr (shl s u.shiftB ^^^ s) u.shiftC

/-- TAUS1 (R76). -/
def taus1 (s : Word) : Word := feedback unit1 s

/-- TAUS2 (R77). -/
def taus2 (s : Word) : Word := feedback unit2 s

/-- TAUS3 (R78). -/
def taus3 (s : Word) : Word := feedback unit3 s

/-- The three updates of a raw step, together (R82, R83). -/
def Gen.step (g : Gen) : Gen := ⟨taus1 g.s1, taus2 g.s2, taus3 g.s3⟩

/-- The combining stage: the XOR of the three unit words (R82, R85). -/
def Gen.combine (g : Gen) : Word := g.s1 ^^^ g.s2 ^^^ g.s3

/-- RAWSTEP (R82): the new unit words, and the raw word made of them. -/
def rawStep (s : State) : State × Word := (s.setGen s.gen.step, s.gen.step.combine)

/-- `n` raw steps of the units alone. -/
def Gen.iter : Nat → Gen → Gen
  | 0, g => g
  | n + 1, g => Gen.iter n g.step

/-- `r(k)`, the `k`-th raw word after the units hold `g` (R96, R84). -/
def rawWord (g : Gen) (k : Nat) : Word := (Gen.iter k g).combine

/-! ## The shuffle step -/

/-- The history update of a shuffle step whose response is `output` (R86, R88). -/
def Hist.shift (h : Hist) (output : Word) : Hist := ⟨output, h.out, h.prev⟩

/-- `DRAW()`, the body of the shuffle step (R86, R110): the word drawn and the state after it. The index is captured
before anything changes (R87), the slot is read before it is written (R36), and a slot without a value is the fault
Unseeded (R33). -/
def draw (s : State) : Except Fault (Word × State) :=
  if s.seeded then
    let index := slotIndex s.hist.pprev
    match s.table.read index with
    | none => .error .unseeded
    | some output =>
      let (s', raw) := rawStep s
      .ok (output, (s'.setTable (s'.table.write index raw)).setHist (s'.hist.shift output))
  else .error .unseeded

/-- `k` draws, one after the other: the words drawn, first draw first, and the state after the last (R110, R152). -/
def draws : Nat → State → Except Fault (List Word × State)
  | 0, s => .ok ([], s)
  | k + 1, s =>
    match draw s with
    | .error f => .error f
    | .ok (x, s') =>
      match draws k s' with
      | .error f => .error f
      | .ok (xs, s'') => .ok (x :: xs, s'')

/-! ## Outcomes -/

/-- The outcome of a command whose rule gives a result: the next state, with the response on the port (R13, R66). -/
def respond (r : Rsp) (s : State) : Host.Outcome State Fault Refusal := .next (s.setRsp (some r))

/-- `raise f` (R12, R128): the one way a meaning faults. -/
def raise (f : Fault) : Host.Outcome State Fault Refusal := .fault f

/-- A transform of one draw (R110): the response is `f` of the word drawn. -/
def transform (f : Word → Rsp) (s : State) : Host.Outcome State Fault Refusal :=
  match draw s with
  | .error e => raise e
  | .ok (x, s') => respond (f x) s'

/-! ## Reset -/

/-- `rst` asserted, for given RESET_WORDS (R143): every piece of engine state takes its reset value, whatever it held; a
command in progress is abandoned without a response. The host goes on. -/
def applyReset (rw : ResetWords) (s : State) : State := (State.resetWith rw).setHost s.host

end Sys2Proof.Machine
end

