-- ==== Sys2Proof/Machine/Diagnostic.lean ====
section
/-! DEFINITION. The two diagnostic reads (44_diagnostic.md). Neither changes any state but the response port (R123). -/

namespace Sys2Proof.Machine

/-- RDST (R124). No command word spells selector 6 or 7 (R68), so their terms are refused as such a word is. -/
def execRdst (sel : BitVec 3) (s : State) : Host.Outcome State Fault Refusal :=
  match regOfSel sel with
  | some r => respond (zext64 (readReg s r)) s
  | none => .refused (.noCommand .reservedSelector)

/-- RDTB (R125). -/
def execRdtb (index : Index) (s : State) : Host.Outcome State Fault Refusal :=
  if s.seeded = false then raise .unseeded
  else match s.table.read index with
    | none => raise .unseeded
    | some v => respond (zext64 v) s

end Sys2Proof.Machine
end

