-- ==== Sys2Proof/Machine/Seeder.lean ====
section
/-! DEFINITION. SEED and the seeder's machine (42_seeder.md). The command's acceptance is its meaning in `exec`; the 16515
micro-steps that follow are steps of the machine on its own. `seedWhole` is the whole command as one transition (R95),
for statements; nothing of the machine calls it. Entry 11 of the log. -/

namespace Sys2Proof.Machine

/-- Acceptance (R102): the seed words go to the units as they are (R99), `seeded` drops, `busy` rises, the machine enters
WARM. No response yet. -/
def execSeed (a0 a1 a2 : Word) (s : State) : Host.Outcome State Fault Refusal :=
  .next (((((s.setGen ⟨a0, a1, a2⟩).setSeeded false).setBusy true).setSeq .warm 0).setRsp none)

/-- Warm-up micro-step (R103): a raw step whose word is discarded. -/
def warmStep (s : State) : State :=
  let s' := (rawStep s).1
  if s.cnt = 127 then s'.setSeq .hist 0 else s'.setSeq .warm (s.cnt + 1)

/-- The history word a history micro-step writes (R104): the first to `out`, the second to `prev`, the third to `pprev`. -/
def seedHist (h : Hist) (cnt : BitVec 14) (r : Word) : Hist :=
  if cnt = 0 then { h with out := r }
  else if cnt = 1 then { h with prev := r }
  else if cnt = 2 then { h with pprev := r }
  else h

/-- History micro-step (R104). -/
def histStep (s : State) : State :=
  let (s', r) := rawStep s
  let s'' := s'.setHist (seedHist s'.hist s.cnt r)
  if s.cnt = 2 then s''.setSeq .fill 0 else s''.setSeq .hist (s.cnt + 1)

/-- Fill micro-step (R105): the raw word goes to slot `cnt`; the last one ends the command, with response 0. -/
def fillStep (s : State) : State :=
  let (s', r) := rawStep s
  let s'' := s'.setTable (s'.table.write s.cnt r)
  if s.cnt = 16383 then (((s''.setSeq .idle 0).setSeeded true).setBusy false).setRsp (some 0)
  else s''.setSeq .fill (s.cnt + 1)

/-- One micro-step of the seeder's machine (R106). In phase IDLE it does not move. A response is given by the last
micro-step alone. -/
def microStep (s : State) : State :=
  match s.phase with
  | .idle => s.setRsp none
  | .warm => warmStep (s.setRsp none)
  | .hist => histStep (s.setRsp none)
  | .fill => fillStep (s.setRsp none)

/-- `n` micro-steps. -/
def microSteps : Nat → State → State
  | 0, s => s
  | n + 1, s => microSteps n (microStep s)

/-- `n` fill words from slot `i` on, when the units hold `g` before the first (R95, R96). -/
def fillWords : Nat → Nat → Gen → Memory
  | 0, _, _ => []
  | n + 1, i, g => (i, g.step.combine) :: fillWords n (i + 1) g.step

/-- SEED as one transition (R95, R96). -/
def seedWhole (a0 a1 a2 : Word) (s : State) : State :=
  let g : Gen := ⟨a0, a1, a2⟩
  { gen := Gen.iter seedSteps g
    hist := ⟨rawWord g (warmupSteps + 1), rawWord g (warmupSteps + 2), rawWord g (warmupSteps + 3)⟩
    table := fillWords fillSteps 0 (Gen.iter (warmupSteps + histSteps) g)
    phase := .idle
    cnt := 0
    seeded := true
    busy := false
    rsp := some 0
    host := s.host }

end Sys2Proof.Machine
end

