-- ==== Sys2Proof/Machine/Shuffle.lean ====
section
/-! DEFINITION. NEXT, the shuffle step (41_shuffle_step.md R86). -/

namespace Sys2Proof.Machine

/-- NEXT (R86): one draw, and the response is the word drawn, the slot's old content (R89). -/
def execNext (s : State) : Host.Outcome State Fault Refusal := transform zext64 s

end Sys2Proof.Machine
end

