-- ==== Sys2Proof/Machine/Binary64.lean ====
section
/-! DEFINITION. The 64 bits of the binary64 value `q / 2^w` (30_encoding.md R67). No rounding, no special value occurs
(43_output_transforms.md R120). -/

namespace Sys2Proof.Machine

/-- The exponent field of `q / 2^w` for `q ≠ 0`: `1023 + k - w`, `k` the position of the highest set bit (R67). -/
def expField (q w : Nat) : BitVec 11 := BitVec.ofNat 11 (1023 + q.log2 - w)

/-- The fraction field of `q / 2^w` for `q ≠ 0`: `(q - 2^k) * 2^(52 - k)` (R67). -/
def fracField (q : Nat) : BitVec 52 := BitVec.ofNat 52 ((q - 2 ^ q.log2) * 2 ^ (52 - q.log2))

/-- The encoding of `q / 2^w`, for `0 ≤ q < 2^w` and `w` 31 or 53 (R67). -/
def binary64 (q w : Nat) : Rsp := if q = 0 then 0 else 0#1 ++ (expField q w ++ fracField q)

end Sys2Proof.Machine
end

