-- ==== Sys2Proof/Machine/Transforms.lean ====
section
/-! DEFINITION. The five output transforms (43_output_transforms.md). -/

namespace Sys2Proof.Machine

/-- U01's response to the draw `x`: `mag(x) / 2^31` as binary64 (R113). -/
def u01Of (x : Word) : Rsp := binary64 (mag x) 31

/-- U01 (R113). -/
def execU01 (s : State) : Host.Outcome State Fault Refusal := transform u01Of s

/-- One update of F53's accumulator in its integer form, `frac = q / 2^53` (R115): a strictly positive draw is a one bit, a
strictly negative draw a zero bit, a draw of 0 is skipped. -/
def f53Update (q : Nat) (x : Word) : Nat :=
  if 0 < signed32 x then q / 2 + 2 ^ 52
  else if signed32 x < 0 then q / 2
  else q

/-- F53's 53-bit number, from its draws, first draw first; the accumulator starts at 0 (R115; decision D10). -/
def f53Of (xs : List Word) : Nat := xs.foldl f53Update 0

/-- F53 (R115): 53 draws. -/
def execF53 (s : State) : Host.Outcome State Fault Refusal :=
  match draws f53Steps s with
  | .error e => raise e
  | .ok (xs, s') => respond (binary64 (f53Of xs) 53) s'

/-- BND's response to the draw `x` (R117): the exact product, shifted right by 31. -/
def bndOf (limit x : Word) : Rsp := zext64 (BitVec.ofNat 32 (mag x * limit.toNat / 2 ^ 31))

/-- BND (R117). Unseeded comes before LimitZero (R131). -/
def execBnd (limit : Word) (s : State) : Host.Outcome State Fault Refusal :=
  if s.seeded = false then raise .unseeded
  else if limit = 0 then raise .limitZero
  else transform (bndOf limit) s

/-- BITS's response to the draw `x` (R118): the top `n` bits. -/
def bitsOf (n : BitVec 8) (x : Word) : Rsp := zext64 (shr x (32 - n.toNat))

/-- BITS (R118). Unseeded comes before BitsRange (R131). -/
def execBits (n : BitVec 8) (s : State) : Host.Outcome State Fault Refusal :=
  if s.seeded = false then raise .unseeded
  else if n = 0 ∨ 32 ≤ n.toNat then raise (.bitsRange n)
  else transform (bitsOf n) s

/-- BIT's response to the draw `x` (R119): 1 when `mag(x) / 2^31 ≥ 1/2`. -/
def bitOf (x : Word) : Rsp := if 2 ^ 30 ≤ mag x then 1 else 0

/-- BIT (R119). -/
def execBit (s : State) : Host.Outcome State Fault Refusal := transform bitOf s

end Sys2Proof.Machine
end

