-- ==== Sys2Proof/Machine/Dispatch.lean ====
section
/-! DEFINITION. The meaning of every command, by one call (30_encoding.md R55). -/

namespace Sys2Proof.Machine

def exec (i : Instr) (s : State) : Host.Outcome State Fault Refusal :=
  match i with
  | .seed a0 a1 a2 => Sys2Proof.Machine.execSeed a0 a1 a2 s
  | .next => Sys2Proof.Machine.execNext s
  | .u01 => Sys2Proof.Machine.execU01 s
  | .f53 => Sys2Proof.Machine.execF53 s
  | .bnd limit => Sys2Proof.Machine.execBnd limit s
  | .bits n => Sys2Proof.Machine.execBits n s
  | .bit => Sys2Proof.Machine.execBit s
  | .rdst sel => Sys2Proof.Machine.execRdst sel s
  | .rdtb index => Sys2Proof.Machine.execRdtb index s

end Sys2Proof.Machine
end

