-- ==== Sys2Proof/Machine/Port.lean ====
section
/-! DEFINITION. The command port (30_encoding.md R51, R52): fetching the command word the host presents, moving the host
past what it has done, and placing a command word on the port. -/

namespace Sys2Proof.Machine

/-- The command accepted in this state, decoded: `none` when no word is accepted (R52). -/
def fetch (s : State) : Option (Except DecodeError Instr) := (accepted s).map decode

/-- The host past the first of its actions. -/
def popHost (s : State) : State := s.setHost s.host.tail

/-- The host after a step in which no command was accepted and `rst` was low: a step with every input low is over, a
command that was not accepted stays on the port and has no effect (R52). -/
def waitHost (s : State) : State :=
  match s.host with
  | .wait :: rest => s.setHost rest
  | _ => s

/-- Put a command word on the port of an engine that is ready for it, before everything else the host does. -/
def placeCommand (w : CmdWord) (s : State) : State :=
  ((s.setSeq .idle 0).setBusy false).setHost (.command w :: s.host)

end Sys2Proof.Machine
end

