-- ==== Sys2Proof/Machine/Step.lean ====
section
/-! DEFINITION. One step of the machine: a reset, a micro-step of the seeder, the command accepted, or an idle step
(42_seeder.md R106; 70_reset_and_hazards.md R143). -/

namespace Sys2Proof.Machine

/-- A step in phase IDLE: the accepted command's meaning, a refusal if the word spells none, else the engine holds its
state (R106, R52, R68, R141). -/
def idleStep (s : State) : Host.Outcome State Fault Refusal :=
  match fetch s with
  | none => .next (microStep (waitHost s))
  | some (.error e) => .refused (.noCommand e)
  | some (.ok i) => exec i (popHost s)

/-- One step. `rst` wins over everything (R143); a seeding goes on by itself (R103 to R105). -/
def step (s : State) : Host.Outcome State Fault Refusal :=
  if rstIn s then .next (applyReset Config.resetWords (popHost s))
  else if s.phase = .idle then idleStep s
  else .next (microStep (waitHost s))

/-- The state with the command word of the table's number `w` on the command port of a ready engine, so that the very next
step accepts and runs it. Entry 4. -/
def State.withFetchWord (s : State) (nbits w : Nat) : State := placeCommand (BitVec.ofNat 128 (w % 2 ^ nbits)) s

end Sys2Proof.Machine
end

