-- ==== Sys2Proof/Machine/Assembly.lean ====
section
/-! DEFINITION. The one-line syntax of a command and the pseudo-commands with their expansions (30_encoding.md R72, R73). -/

namespace Sys2Proof.Machine

/-- A command as a line: the mnemonic, then the operands in decimal separated by commas (R72). -/
def asmLine : Instr → String
  | .seed a0 a1 a2 => "SEED " ++ toString a0.toNat ++ ", " ++ toString a1.toNat ++ ", " ++ toString a2.toNat
  | .next => "NEXT"
  | .u01 => "U01"
  | .f53 => "F53"
  | .bnd limit => "BND " ++ toString limit.toNat
  | .bits n => "BITS " ++ toString n.toNat
  | .bit => "BIT"
  | .rdst sel => "RDST " ++ toString sel.toNat
  | .rdtb index => "RDTB " ++ toString index.toNat

/-- The source's names for the operations (R73). -/
inductive Pseudo where
  | seed (w0 w1 w2 : Word)
  | nextRaw
  | uniform01
  | fraction53
  | boundedInt (limit : Word)
  | bitsInt (n : BitVec 8)
  | bit
  | dumpState
  | dumpTable
  deriving DecidableEq, Repr

/-- The commands a name stands for (R73). The orders of the two dumps are the spec's own (R126). -/
def expand : Pseudo → List Instr
  | .seed w0 w1 w2 => [.seed w0 w1 w2]
  | .nextRaw => [.next]
  | .uniform01 => [.u01]
  | .fraction53 => [.f53]
  | .boundedInt limit => [.bnd limit]
  | .bitsInt n => [.bits n]
  | .bit => [.bit]
  | .dumpState => [.rdst 0, .rdst 1, .rdst 2, .rdst 3, .rdst 4, .rdst 5]
  | .dumpTable => (List.range tableSize).map (fun i => .rdtb (BitVec.ofNat 14 i))

end Sys2Proof.Machine
end

