-- ==== Sys2Proof/Safety.lean ====
section
/-! DEFINITION. The terms claims are made in: the invariant of the engine's states, a full table, sequences of commands
and what they draw, and the values that responses stand for. -/

namespace Sys2Proof.Machine

/-- Every slot of the table has been written (10_state.md R20, R27). -/
def State.full (s : State) : Prop := ∀ i : Index, (s.table.read i).isSome = true

/-- The ranges of `cnt` in each phase (10_state.md R21; 42_seeder.md R106). -/
def cntOk : Phase → BitVec 14 → Bool
  | .idle, c => c == 0
  | .warm, c => decide (c.toNat < 128)
  | .hist, c => decide (c.toNat < 3)
  | .fill, _ => true

/-- What every state of a run has: the table in its canonical form, the sequencing state within the machine's table
(R106), `busy` exactly when the seeder is at work (R22), the slots below `cnt` written during the fill (R27), a full table
and an idle machine whenever `seeded` (R20, R22), and no response while a command is in progress (R52). -/
structure State.Inv (s : State) : Prop where
  canonical : s.table.wf = true
  sequencing : cntOk s.phase s.cnt = true
  busyPhase : s.busy = true ↔ s.phase ≠ .idle
  filling : s.phase = .fill → ∀ i : Index, i.toNat < s.cnt.toNat → (s.table.read i).isSome = true
  seededIdle : s.seeded = true → s.phase = .idle
  seededFull : s.seeded = true → s.full
  oneAtATime : s.rsp.isSome = true → s.phase = .idle

/-- A state from which every draw has a value: a seeded engine with a full table. -/
def State.ready (s : State) : Prop := s.seeded = true ∧ s.full

/-- The engine is idle and ready for a command (42_seeder.md R102). -/
def State.atRest (s : State) : Prop := s.phase = .idle ∧ s.busy = false

/-- The state that one draw of the word `x` leaves (41_shuffle_step.md R86): the units after a raw step, the raw word in the
selected slot, `x` at the head of the history. -/
def afterDraw (s : State) (x : Word) : State :=
  ((s.setGen s.gen.step).setTable (s.table.write (slotIndex s.hist.pprev) s.gen.step.combine)).setHist (s.hist.shift x)

/-- How many draws a command makes (43_output_transforms.md R110; 70_reset_and_hazards.md R157). -/
def drawCount : Instr → Nat
  | .seed _ _ _ => 0
  | .next => 1
  | .u01 => 1
  | .f53 => f53Steps
  | .bnd _ => 1
  | .bits _ => 1
  | .bit => 1
  | .rdst _ => 0
  | .rdtb _ => 0

/-- The diagnostic reads (44_diagnostic.md). -/
def isDiagnostic : Instr → Bool
  | .rdst _ => true
  | .rdtb _ => true
  | _ => false

/-- `n` steps of the machine, stopping at the first fault or refusal. -/
def steps : Nat → State → Host.Outcome State Fault Refusal
  | 0, s => .next s
  | n + 1, s =>
    match step s with
    | .next s' => steps n s'
    | .fault f => .fault f
    | .refused r => .refused r

/-- The commands of a list, one after the other, from one state (20_memory.md R45): their responses and the last state. -/
def execAll : List Instr → State → Host.Outcome (List (Option Rsp) × State) Fault Refusal
  | [], s => .next ([], s)
  | i :: is, s =>
    match exec i s with
    | .fault f => .fault f
    | .refused r => .refused r
    | .next s' =>
      match execAll is s' with
      | .fault f => .fault f
      | .refused r => .refused r
      | .next (rs, s'') => .next (s'.rsp :: rs, s'')

/-- The slots that `n` draws from `s` select, first draw first (41_shuffle_step.md R86). -/
def drawSlots : Nat → State → List Index
  | 0, _ => []
  | n + 1, s =>
    slotIndex s.hist.pprev ::
      match draw s with
      | .ok (_, s') => drawSlots n s'
      | .error _ => []

/-- The words of the table, without their indices. -/
def Memory.words (t : Memory) : List Word := t.map Prod.snd

/-- The raw words of the next `n` raw steps of units holding `g`, first step first (42_seeder.md R96). -/
def rawWords : Nat → Gen → List Word
  | 0, _ => []
  | n + 1, g => g.step.combine :: rawWords n g.step

/-- The table after a list of writes, in order, to a table that nothing has written (20_memory.md R33). -/
def afterWrites (ws : List (Index × Word)) : Memory := ws.foldl (fun t p => t.write p.1 p.2) []

/-- The value of a binary64 pattern that is zero or a normal number (30_encoding.md R67): sign, biased exponent,
fraction. -/
def binary64Value (b : Rsp) : ℚ :=
  let e : BitVec 11 := b.extractLsb' 52 11
  let f : BitVec 52 := b.extractLsb' 0 52
  let m : ℚ := if e = 0 then 0 else (1 + (f.toNat : ℚ) / 2 ^ 52) * (2 : ℚ) ^ ((e.toNat : Int) - 1023)
  if b.msb then -m else m

/-- F53's accumulator as the source writes it (43_output_transforms.md R115): a rational, halved at every bit taken. -/
def fracUpdate (frac : ℚ) (x : Word) : ℚ :=
  if 0 < signed32 x then frac * (1 / 2) + 1 / 2
  else if signed32 x < 0 then frac * (1 / 2)
  else frac

end Sys2Proof.Machine
end

