-- ==== Sys2Proof/Certificates/Slice0/Obligations.lean ====
section
/-! DEFINITION. The statements for the provers. Each docstring names the rule of spec/ it formalises, and, where a statement
rests on a decision or an inference that the spec marks as its own, that decision or sentence. -/

open Sys2Proof Sys2Proof.Machine

/-! ## Encoding (30_encoding.md) -/

/-- Decoding the encoding of a well-formed command gives it back, with every operand at every value its field admits. Rests
on the spec's own encoding, decision D2 and D14. -/
def Obligations.DecodeOfEncodeIsIdentity : Prop :=
  ∀ i : Instr, i.wellFormed = true → decode (encode i) = .ok i

/-- "decoding then encoding a legal word gives the same word" (section 2, decision D2): the encoding is canonical, and the
decoder gives well-formed commands only. -/
def Obligations.EncodeOfDecodeIsIdentity : Prop :=
  ∀ (w : CmdWord) (i : Instr), decode w = .ok i → i.wellFormed = true ∧ encode i = w

/-- The decoder accepts a word exactly when a row of the opcode table does, `w AND mask = match` (section 3, decision D2),
with RDST's further test of the selector (decision D14), and gives a command of that row. -/
def Obligations.DecoderAcceptsExactlyTheTableRows : Prop :=
  (∀ (w : CmdWord) (i : Instr), decode w = .ok i →
    w &&& i.rowMask = i.rowMatch ∧ (i.opcode = 0x08 → selectorOk (w.extractLsb' 0 3) = true)) ∧
  (∀ (w : CmdWord) (i : Instr), w &&& i.rowMask = i.rowMatch →
    (i.opcode = 0x08 → selectorOk (w.extractLsb' 0 3) = true) → ∃ j, decode w = .ok j ∧ j.opcode = i.opcode)

/-- A word with a reserved `op`, a nonzero `rsv`, or RDST's selector 6 or 7 spells no command (section 6, decision D7). -/
def Obligations.ReservedWordsSpellNoCommand : Prop :=
  ∀ w : CmdWord,
    (opField w = 0x00 ∨ 0x0A ≤ (opField w).toNat ∨ rsvField w ≠ 0 ∨
      (opField w = 0x08 ∧ 6 ≤ ((a0Field w).extractLsb' 0 3).toNat)) →
    ∀ i : Instr, decode w ≠ .ok i

/-- A few words of 95_test_vectors.md sections 7.1 and 7.2, written out, and what they spell (decisions D2, D7, D14). -/
def Obligations.SpecWordsDecodeAsListed : Prop :=
  decode 0x010000000FEDCBA99ABCDEF012345678 = .ok (.seed 0x12345678 0x9ABCDEF0 0x0FEDCBA9) ∧
  decode 0x02000000000000000000000000000000 = .ok .next ∧
  decode 0x050000000000000000000000000F4240 = .ok (.bnd 1000000) ∧
  decode 0x0600000000000000000000000000001F = .ok (.bits 31) ∧
  decode 0x08000000000000000000000000000005 = .ok (.rdst 5) ∧
  decode 0x09000000000000000000000000001492 = .ok (.rdtb 5266) ∧
  decode 0x00000000000000000000000000000000 = .error .reservedOpcode ∧
  decode 0x02000001000000000000000000000000 = .error .reservedBits ∧
  decode 0x06000000000000000000000000000100 = .error .unusedOperand ∧
  decode 0x08000000000000000000000000000006 = .error .reservedSelector

/-! ## The command port and the step (30_encoding.md section 1, 42_seeder.md section 2) -/

/-- A step of an engine at rest runs the command whose word the host presents (decision D4). That the host has then moved
past that word is the model's form of the host, entry 4. -/
def Obligations.StepRunsTheAcceptedCommand : Prop :=
  ∀ (s : State) (w : CmdWord) (rest : List HostAct) (i : Instr),
    s.atRest → s.host = .command w :: rest → decode w = .ok i → step s = exec i (s.setHost rest)

/-- A step on a word that spells no command is refused, with the reason (decision D7). -/
def Obligations.StepRefusesAWordThatSpellsNoCommand : Prop :=
  ∀ (s : State) (w : CmdWord) (rest : List HostAct) (e : DecodeError),
    s.atRest → s.host = .command w :: rest → decode w = .error e → step s = .refused (.noCommand e)

/-- "A command word presented while cmd_ready = 0 is not accepted and has no effect" (decision D4): the step goes on as it
would with nothing presented. That the word stays on the port is the model's choice, entry 4: the model's host holds a
word until it is accepted. -/
def Obligations.BusyEngineAcceptsNothing : Prop :=
  ∀ (s : State) (w : CmdWord) (rest : List HostAct),
    s.busy = true → s.host = .command w :: rest →
    ∃ t, step (s.setHost []) = .next t ∧ step s = .next (t.setHost (.command w :: rest))

/-- An engine to which nothing is presented holds its state ("Between commands the engine simply holds its state"): with a
host that does nothing any more, and with a host that leaves every input low for this step. That the response port falls
in the step after the response is the model's choice, entry 5; that the host has then moved past its `wait` is the
model's form of the host, entry 4. -/
def Obligations.IdleEngineHoldsItsState : Prop :=
  ∀ s : State, s.phase = .idle →
    (s.host = [] → step s = .next (s.setRsp none)) ∧
    ∀ rest : List HostAct, s.host = .wait :: rest → step s = .next ((s.setRsp none).setHost rest)

/-- A response is on the port after a step exactly when the step completed a command: an accepted command other than SEED,
or the last fill micro-step of a SEED (decisions D4, D19; entry 5). -/
def Obligations.ResponseExactlyAtCompletion : Prop :=
  ∀ s t : State, step s = .next t →
    (t.rsp.isSome = true ↔
      rstIn s = false ∧
        ((s.phase = .fill ∧ s.cnt = 16383) ∨
          (s.phase = .idle ∧ ∃ i : Instr, fetch s = some (.ok i) ∧ i.opcode ≠ 0x01)))

/-- The nine rows of the seeder's transition table (42_seeder.md section 2, decision D19), as steps in which `rst` is low:
the two from (IDLE, 0), a SEED accepted and any other command accepted, then the seven in which the machine moves by itself.
What the host does meanwhile (`waitHost`: a presented word is held, a `wait` is over) is the model's choice, entry 4; that
no response is on the port until the last row is the model's choice, entry 5. -/
def Obligations.SeederFollowsItsTransitionTable : Prop :=
  ∀ s : State, rstIn s = false →
    let u := ((waitHost s).setRsp none).setGen s.gen.step
    let r := s.gen.step.combine
    (∀ (a0 a1 a2 : Word) (w : CmdWord) (rest : List HostAct), s.phase = .idle → s.cnt = 0 → s.busy = false →
      s.host = .command w :: rest → decode w = .ok (.seed a0 a1 a2) →
      step s = .next ((((((s.setGen ⟨a0, a1, a2⟩).setSeeded false).setBusy true).setSeq .warm 0).setRsp none).setHost
        rest)) ∧
    (∀ (i : Instr) (w : CmdWord) (rest : List HostAct) (t : State), s.phase = .idle → s.cnt = 0 → s.busy = false →
      s.host = .command w :: rest → decode w = .ok i → i.opcode ≠ 0x01 → step s = .next t →
      exec i (s.setHost rest) = .next t ∧ t.phase = .idle ∧ t.cnt = 0) ∧
    (s.phase = .warm → s.cnt.toNat < 127 → step s = .next (u.setSeq .warm (s.cnt + 1))) ∧
    (s.phase = .warm → s.cnt = 127 → step s = .next (u.setSeq .hist 0)) ∧
    (s.phase = .hist → s.cnt = 0 →
      step s = .next ((u.setHist ⟨r, s.hist.prev, s.hist.pprev⟩).setSeq .hist 1)) ∧
    (s.phase = .hist → s.cnt = 1 →
      step s = .next ((u.setHist ⟨s.hist.out, r, s.hist.pprev⟩).setSeq .hist 2)) ∧
    (s.phase = .hist → s.cnt = 2 →
      step s = .next ((u.setHist ⟨s.hist.out, s.hist.prev, r⟩).setSeq .fill 0)) ∧
    (s.phase = .fill → s.cnt.toNat < 16383 →
      step s = .next ((u.setTable (s.table.write s.cnt r)).setSeq .fill (s.cnt + 1))) ∧
    (s.phase = .fill → s.cnt = 16383 →
      step s = .next (((((u.setTable (s.table.write s.cnt r)).setSeq .idle 0).setSeeded true).setBusy false).setRsp
        (some 0)))

/-! ## Reset (10_state.md section 11, 70_reset_and_hazards.md section 1) -/

/-- `rst` wins in every state, in the middle of a SEED too (decisions D6, D17). RESET_WORDS stays the named constant of
Config: nothing rests on its value (entry 1). Three things are the model's choice: that the host has then moved past its
reset (entry 4), that the response port is empty right after reset (entry 5), and that the host presents no word while
`rst` is high (entry 12). -/
def Obligations.RstWinsInEveryState : Prop :=
  ∀ (s : State) (rest : List HostAct), s.host = .reset :: rest →
    step s = .next ((State.resetWith Config.resetWords).setHost rest)

/-- What reset leaves, for every choice of RESET_WORDS (decision D6): the sequencing state and both flags 0, every slot
without a value, the six registers RESET_WORDS. The machine's own reset is that with Config's words. -/
def Obligations.ResetLeavesTheListedValues : Prop :=
  (∀ rw : ResetWords,
    let s := State.resetWith rw
    s.phase = .idle ∧ s.cnt = 0 ∧ s.seeded = false ∧ s.busy = false ∧ (∀ i : Index, s.table.read i = none) ∧
      s.gen = ⟨rw.s1, rw.s2, rw.s3⟩ ∧ s.hist = ⟨rw.out, rw.prev, rw.pprev⟩) ∧
  State.reset = State.resetWith Config.resetWords

/-! ## The shuffle table (20_memory.md) -/

/-- R33: a read yields the word most recently written to the slot since reset; without such a write it is the fault
Unseeded, for the diagnostic read and for the swap; a read changes no state. -/
def Obligations.ReadGivesTheLastWrite : Prop :=
  (∀ (ws : List (Index × Word)) (i : Index), (afterWrites ws).read i = ws.reverse.lookup i) ∧
  (∀ (s : State) (i : Index), s.table.read i = none → exec (.rdtb i) s = .fault .unseeded) ∧
  (∀ s : State, s.table.read (slotIndex s.hist.pprev) = none → exec .next s = .fault .unseeded) ∧
  (∀ (s t : State) (i : Index), exec (.rdtb i) s = .next t →
    t = s.setRsp t.rsp ∧ ∃ v, s.table.read i = some v ∧ t.rsp = some (v.setWidth 64))

/-- Two tables in canonical form that read alike are equal: the model's form of the table (entry 2) holds nothing but what
reads can show. -/
def Obligations.CanonicalTablesThatReadAlikeAreEqual : Prop :=
  ∀ t u : Memory, t.wf = true → u.wf = true → (∀ i : Index, t.read i = u.read i) → t = u

/-- The index of a shuffle step is `pprev[31:18]`, always a slot of the table (section 3, marked derived there). -/
def Obligations.SlotIndexIsTheTopFourteenBits : Prop :=
  ∀ v : Word, (slotIndex v).toNat = v.toNat / 2 ^ 18 ∧ slotIndex v = v.extractLsb' 18 14

/-! ## The feedback units and the raw step (40_feedback_units.md) -/

/-- R74 and R75: each unit's update is the fixed function of its constants, in numbers: left shifts modulo 2^32, taken
before the XOR, and a logical right shift. -/
def Obligations.UnitsComputeTheirFormulasModulo2Pow32 : Prop :=
  ∀ s : Word,
    (taus1 s).toNat = ((s.toNat &&& 0xFFFFFFFE) * 2 ^ 12 % 2 ^ 32) ^^^ (((s.toNat * 2 ^ 13 % 2 ^ 32) ^^^ s.toNat) / 2 ^ 19) ∧
    (taus2 s).toNat = ((s.toNat &&& 0xFFFFFFF8) * 2 ^ 4 % 2 ^ 32) ^^^ (((s.toNat * 2 ^ 2 % 2 ^ 32) ^^^ s.toNat) / 2 ^ 25) ∧
    (taus3 s).toNat = ((s.toNat &&& 0xFFFFFFF0) * 2 ^ 17 % 2 ^ 32) ^^^ (((s.toNat * 2 ^ 3 % 2 ^ 32) ^^^ s.toNat) / 2 ^ 11)

/-- The bit-level forms of the three updates (section 2, marked derived there): the two terms tile the word. -/
def Obligations.UnitUpdatesBitByBit : Prop :=
  ∀ s : Word,
    (taus1 s).extractLsb' 13 19 = s.extractLsb' 1 19 ∧
    (taus1 s).extractLsb' 0 13 = s.extractLsb' 6 13 ^^^ s.extractLsb' 19 13 ∧
    (taus2 s).extractLsb' 7 25 = s.extractLsb' 3 25 ∧
    (taus2 s).extractLsb' 0 7 = s.extractLsb' 23 7 ^^^ s.extractLsb' 25 7 ∧
    (taus3 s).extractLsb' 21 11 = s.extractLsb' 4 11 ∧
    (taus3 s).extractLsb' 0 21 = s.extractLsb' 8 21 ^^^ s.extractLsb' 11 21

/-- Each unit is linear over XOR (section 3, marked derived there). -/
def Obligations.UnitsAreXorLinear : Prop :=
  ∀ a b : Word,
    taus1 (a ^^^ b) = taus1 a ^^^ taus1 b ∧ taus2 (a ^^^ b) = taus2 a ^^^ taus2 b ∧
      taus3 (a ^^^ b) = taus3 a ^^^ taus3 b

/-- After one or more raw steps a unit's word is 0 exactly when its seed word was degenerate: 0 or 1 for unit 1, 0 to 7 for
unit 2, 0 to 15 for unit 3; the others never die (section 3, marked derived there). -/
def Obligations.UnitIsDeadExactlyForDegenerateSeeds : Prop :=
  ∀ (n : Nat) (g : Gen),
    ((Gen.iter (n + 1) g).s1 = 0 ↔ g.s1.toNat < 2) ∧
    ((Gen.iter (n + 1) g).s2 = 0 ↔ g.s2.toNat < 8) ∧
    ((Gen.iter (n + 1) g).s3 = 0 ↔ g.s3.toNat < 16)

/-- R82: the raw word is made of the updated words, and a raw step changes `s1, s2, s3` and nothing else. -/
def Obligations.RawStepUsesTheUpdatedWords : Prop :=
  ∀ s : State,
    rawStep s =
      ({ s with gen := ⟨taus1 s.gen.s1, taus2 s.gen.s2, taus3 s.gen.s3⟩ },
        taus1 s.gen.s1 ^^^ taus2 s.gen.s2 ^^^ taus3 s.gen.s3)

/-! ## NEXT (41_shuffle_step.md) -/

/-- R86: NEXT faults when `seeded = 0`, and with no other fault; when the selected slot holds `y`, it leaves exactly this
state and answers `y`. -/
def Obligations.NextIsOneShuffleStep : Prop :=
  ∀ s : State,
    (s.seeded = false → exec .next s = .fault .unseeded) ∧
    (∀ f : Fault, exec .next s = .fault f → f = .unseeded) ∧
    ∀ y : Word, s.seeded = true → s.table.read (s.hist.pprev.extractLsb' 18 14) = some y →
      exec .next s = .next
        { s with
          gen := ⟨taus1 s.gen.s1, taus2 s.gen.s2, taus3 s.gen.s3⟩
          table := s.table.write (s.hist.pprev.extractLsb' 18 14)
            (taus1 s.gen.s1 ^^^ taus2 s.gen.s2 ^^^ taus3 s.gen.s3)
          hist := ⟨y, s.hist.out, s.hist.prev⟩
          rsp := some (y.setWidth 64) }

/-- R36: the swap's read sees the slot as it was, its write stores this step's raw word, both at the slot that `pprev`
selects; every other slot keeps its word. -/
def Obligations.SwapReadsBeforeItWrites : Prop :=
  ∀ s t : State, exec .next s = .next t →
    (∃ y, s.table.read (slotIndex s.hist.pprev) = some y ∧ t.rsp = some (y.setWidth 64)) ∧
    t.table.read (slotIndex s.hist.pprev) = some (rawStep s).2 ∧
    ∀ j : Index, j ≠ slotIndex s.hist.pprev → t.table.read j = s.table.read j

/-- After three or more draws the history holds the last three responses, so that a later step is indexed by the response
three steps before it (sections 2 and 10_state.md section 2, marked derived there). -/
def Obligations.HistoryHoldsTheLastThreeResponses : Prop :=
  ∀ (n : Nat) (s t : State) (ys : List Word), draws (n + 3) s = .ok (ys, t) →
    ys[n + 2]? = some t.hist.out ∧ ys[n + 1]? = some t.hist.prev ∧ ys[n]? = some t.hist.pprev

/-- Conservation (section 3, marked derived there): the words of the table after `n` draws and the `n` responses are,
together, the words of the table before and the `n` raw words. -/
def Obligations.DrawsConserveWords : Prop :=
  ∀ (n : Nat) (s t : State) (ys : List Word), s.table.wf = true → draws n s = .ok (ys, t) →
    (t.table.words ++ ys).Perm (s.table.words ++ rawWords n s.gen)

/-- In the all-zero state every drawing command answers 0 and changes nothing but the response port (marked derived in
sections 2 and in 70_reset_and_hazards.md section 3). -/
def Obligations.AllZeroStateAnswersZero : Prop :=
  ∀ s : State, s.seeded = true → s.table.wf = true → s.gen = ⟨0, 0, 0⟩ → s.hist = ⟨0, 0, 0⟩ →
    (∀ i : Index, s.table.read i = some 0) →
    exec .next s = .next (s.setRsp (some 0)) ∧
    exec .u01 s = .next (s.setRsp (some 0)) ∧
    exec .f53 s = .next (s.setRsp (some 0)) ∧
    (∀ limit : Word, limit ≠ 0 → exec (.bnd limit) s = .next (s.setRsp (some 0))) ∧
    (∀ n : BitVec 8, n ≠ 0 → n.toNat < 32 → exec (.bits n) s = .next (s.setRsp (some 0))) ∧
    exec .bit s = .next (s.setRsp (some 0))

/-! ## SEED (42_seeder.md) -/

/-- Acceptance (section 2, decision D19): the meaning of SEED, which is its acceptance alone (entry 11), answers this next
state for every operand and every state; a step reaches it only in phase IDLE with `busy` 0 (StepRunsTheAcceptedCommand).
That no response is on the port then is entry 5. -/
def Obligations.SeedIsAlwaysAccepted : Prop :=
  ∀ (a0 a1 a2 : Word) (s : State),
    exec (.seed a0 a1 a2) s = .next
      { s with
        gen := ⟨a0, a1, a2⟩
        seeded := false
        busy := true
        phase := .warm
        cnt := 0
        rsp := none }

/-- The whole command (section 1) through the machine of section 2 (decision D19): after the acceptance, which is SEED's
meaning (entry 11), the engine stays busy and unseeded for 16515 micro-steps, and ends in the state that section 1 gives,
response 0: 128 raw words discarded, the next three in `out`, `prev`, `pprev`, the next 16384 in the slots in index order.
The table of the state before it is in the model's canonical form (entry 2). -/
def Obligations.SeedRunsToTheStateOfTheRule : Prop :=
  ∀ (a0 a1 a2 : Word) (s : State), s.table.wf = true →
    ∃ t u : State, exec (.seed a0 a1 a2) s = .next t ∧
      (∀ k, k < 16515 → (microSteps k t).busy = true ∧ (microSteps k t).seeded = false) ∧
      microSteps 16515 t = u ∧
      u.gen = Gen.iter 16515 ⟨a0, a1, a2⟩ ∧
      u.hist = ⟨rawWord ⟨a0, a1, a2⟩ 129, rawWord ⟨a0, a1, a2⟩ 130, rawWord ⟨a0, a1, a2⟩ 131⟩ ∧
      (∀ i : Index, u.table.read i = some (rawWord ⟨a0, a1, a2⟩ (132 + i.toNat))) ∧
      u.table.wf = true ∧ u.phase = .idle ∧ u.cnt = 0 ∧ u.seeded = true ∧ u.busy = false ∧ u.rsp = some 0 ∧
      u.host = s.host

/-- The machine and the one-transition form of SEED agree (section 2, marked derived there; the two forms are entry 11): an
engine at rest with a SEED on its port, and a host that then waits for `k` steps and does nothing more, presents a command,
or waits on, takes 16516 steps to the state `seedWhole` gives. What is left of the host (the waits that are over are gone, a
word presented meanwhile is held until it is accepted) is the model's choice, entry 4. -/
def Obligations.SeedTakes16516StepsToSeedWhole : Prop :=
  ∀ (a0 a1 a2 : Word) (s : State) (k : Nat) (after : List HostAct),
    s.atRest → s.table.wf = true →
    s.host = .command (encode (.seed a0 a1 a2)) :: (List.replicate k .wait ++ after) →
    (16515 ≤ k ∨ after = [] ∨ ∃ w more, after = .command w :: more) →
    steps 16516 s = .next ((seedWhole a0 a1 a2 s).setHost (List.replicate (k - 16515) .wait ++ after))

/-- Re-seeding forgets the past (section 1, marked derived there): after SEED, that is after its acceptance and its
16515 micro-steps (section 2, decision D19; entry 11), the engine is the same whatever it held. The tables before it are in
the model's canonical form (entry 2). -/
def Obligations.ReseedingForgetsThePast : Prop :=
  ∀ (a0 a1 a2 : Word) (s s' t t' : State), s.table.wf = true → s'.table.wf = true → s.host = s'.host →
    exec (.seed a0 a1 a2) s = .next t → exec (.seed a0 a1 a2) s' = .next t' →
    microSteps 16515 t = microSteps 16515 t'

/-- Determinism (41_shuffle_step.md section 3, marked derived there): the first `n` words drawn after a SEED are one fixed
list for the seed triple and `n`, whatever the engine held before; and every one of the draws answers. A SEED is its
acceptance and the 16515 micro-steps after it (42_seeder.md section 2, decision D19; entry 11). -/
def Obligations.StreamIsAFunctionOfTheSeed : Prop :=
  ∀ (a0 a1 a2 : Word) (n : Nat), ∃ ys : List Word, ys.length = n ∧
    ∀ s t : State, s.table.wf = true → exec (.seed a0 a1 a2) s = .next t →
      ∃ v, draws n (microSteps 16515 t) = .ok (ys, v)

/-- The table invariant (10_state.md section 3, marked derived there): after a SEED and any number of draws, every slot holds
a raw word of a raw step made since that SEED. A SEED is its acceptance and the 16515 micro-steps after it (42_seeder.md
section 2, decision D19; entry 11). -/
def Obligations.SlotsHoldRawWordsOfTheirSeed : Prop :=
  ∀ (a0 a1 a2 : Word) (n : Nat) (s t v : State) (ys : List Word), s.table.wf = true →
    exec (.seed a0 a1 a2) s = .next t → draws n (microSteps 16515 t) = .ok (ys, v) →
    ∀ i : Index, ∃ k, 132 ≤ k ∧ k ≤ 16515 + n ∧ v.table.read i = some (rawWord ⟨a0, a1, a2⟩ k)

/-! ## Output transforms (43_output_transforms.md) -/

/-- The three lines of `mag` and its bound (section 1; the line for 0x80000000 is the spec's decision D9). -/
def Obligations.MagnitudeOfADraw : Prop :=
  ∀ x : Word,
    (x.toNat < 2 ^ 31 → mag x = x.toNat) ∧ (2 ^ 31 < x.toNat → mag x = 2 ^ 32 - x.toNat) ∧
      (x.toNat = 2 ^ 31 → mag x = 2 ^ 31 - 1) ∧ mag x < 2 ^ 31

/-- U01's result (section 2; `mag` rests on decision D9, the response's form on decision D3). -/
def Obligations.U01AnswersTheMagnitude : Prop :=
  ∀ (s : State) (y : Word), s.seeded = true → s.table.read (slotIndex s.hist.pprev) = some y →
    exec .u01 s = .next ((afterDraw s y).setRsp (some (binary64 (mag y) 31)))

/-- F53's result on a seeded engine with a full table (section 3; the start value 0 is decision D10, the response's form
decision D3): 53 draws, and their 53-bit number. -/
def Obligations.F53AnswersFiftyThreeDraws : Prop :=
  ∀ s : State, s.ready → ∃ (xs : List Word) (t : State), draws 53 s = .ok (xs, t) ∧ xs.length = 53 ∧
    exec .f53 s = .next (t.setRsp (some (binary64 (f53Of xs) 53)))

/-- BND's result and its fault (section 4; the exact product is decision D11, `mag` rests on D9, the fault on D18 and
D20). -/
def Obligations.BndAnswersTheScaledMagnitude : Prop :=
  ∀ (s : State) (limit : Word),
    (∀ y : Word, s.seeded = true → limit ≠ 0 → s.table.read (slotIndex s.hist.pprev) = some y →
      ∃ r : Word, exec (.bnd limit) s = .next ((afterDraw s y).setRsp (some (r.setWidth 64))) ∧
        r.toNat = mag y * limit.toNat / 2 ^ 31 ∧ r.toNat < limit.toNat) ∧
    (s.seeded = true → limit = 0 → exec (.bnd limit) s = .fault .limitZero) ∧
    (s.seeded = false → exec (.bnd limit) s = .fault .unseeded)

/-- R118, BITS: the top `n` bits of the draw for `1 ≤ n ≤ 31`, the faults Unseeded and BitsRange otherwise. -/
def Obligations.BitsAnswersTheTopBits : Prop :=
  ∀ (s : State) (n : BitVec 8),
    (∀ y : Word, s.seeded = true → 1 ≤ n.toNat → n.toNat ≤ 31 →
      s.table.read (slotIndex s.hist.pprev) = some y →
      ∃ r : Word, exec (.bits n) s = .next ((afterDraw s y).setRsp (some (r.setWidth 64))) ∧
        r.toNat = y.toNat / 2 ^ (32 - n.toNat) ∧ r.toNat < 2 ^ n.toNat) ∧
    (s.seeded = true → n = 0 ∨ 32 ≤ n.toNat → exec (.bits n) s = .fault (.bitsRange n)) ∧
    (s.seeded = false → exec (.bits n) s = .fault .unseeded)

/-- BIT's result: 1 exactly for the draws from 0x40000000 to 0xC0000000 (section 6, marked derived there; decision
D12). -/
def Obligations.BitIsOneForTheMiddleHalf : Prop :=
  ∀ (s : State) (y : Word), s.seeded = true → s.table.read (slotIndex s.hist.pprev) = some y →
    exec .bit s = .next ((afterDraw s y).setRsp
      (some (if 0x40000000 ≤ y.toNat ∧ y.toNat ≤ 0xC0000000 then 1 else 0)))

/-- The response pattern of `q / 2^w` stands for exactly that number, is positive and normal (30_encoding.md section 5;
binary64 is decision D3, from general knowledge G1). -/
def Obligations.Binary64PatternIsExact : Prop :=
  ∀ q w : Nat, q < 2 ^ w → w ≤ 53 →
    binary64Value (binary64 q w) = (q : ℚ) / 2 ^ w ∧ (binary64 q w).msb = false ∧
      (q ≠ 0 → 970 ≤ ((binary64 q w).extractLsb' 52 11).toNat ∧ ((binary64 q w).extractLsb' 52 11).toNat ≤ 1022)

/-- F53's integer form is the source's rational recurrence, exactly (section 3, marked derived there; start value
decision D10). -/
def Obligations.F53IntegerFormIsTheRecurrence : Prop :=
  ∀ xs : List Word, xs.length ≤ 53 →
    ((f53Of xs : ℚ) / 2 ^ 53 = xs.foldl fracUpdate 0) ∧ f53Of xs < 2 ^ 53

/-- The range invariants (section 7, marked derived there): the two fractions lie in [0, 1), the bounded integer below its
limit, the bits below `2^n`, the bit is 0 or 1. -/
def Obligations.TransformsStayInRange : Prop :=
  ∀ s t : State,
    (exec .u01 s = .next t → ∃ r, t.rsp = some r ∧ 0 ≤ binary64Value r ∧ binary64Value r < 1) ∧
    (exec .f53 s = .next t → ∃ r, t.rsp = some r ∧ 0 ≤ binary64Value r ∧ binary64Value r < 1) ∧
    (∀ limit : Word, exec (.bnd limit) s = .next t → ∃ r, t.rsp = some r ∧ r.toNat < limit.toNat) ∧
    (∀ n : BitVec 8, exec (.bits n) s = .next t → ∃ r, t.rsp = some r ∧ r.toNat < 2 ^ n.toNat) ∧
    (exec .bit s = .next t → t.rsp = some 0 ∨ t.rsp = some 1)

/-- A transform of `k` draws leaves the state that `k` NEXT commands leave, but for the response port (section 1, marked
derived there). -/
def Obligations.TransformsLeaveWhatNextsLeave : Prop :=
  ∀ (i : Instr) (s t : State), 0 < drawCount i → exec i s = .next t →
    ∃ rs u, execAll (List.replicate (drawCount i) .next) s = .next (rs, u) ∧ t = u.setRsp t.rsp

/-! ## Frames, faults, responses and completion -/

/-- The frame of every command but SEED (whose next state SeedIsAlwaysAccepted gives whole): the units advance by one raw
step a draw; no slot changes but those the draws select, computed from the state before by `drawSlots`; the sequencing
state, the flags and the host keep their values; a command that draws nothing keeps the history and the table too. From
the rules' pseudocode; the draw counts are marked derived in 43_output_transforms.md section 1. -/
def Obligations.DrawingCommandsChangeOnlyWhatTheyDraw : Prop :=
  ∀ (i : Instr) (s t : State), i.opcode ≠ 0x01 → exec i s = .next t →
    t.gen = Gen.iter (drawCount i) s.gen ∧
    (∀ j : Index, j ∉ drawSlots (drawCount i) s → t.table.read j = s.table.read j) ∧
    t.phase = s.phase ∧ t.cnt = s.cnt ∧ t.seeded = s.seeded ∧ t.busy = s.busy ∧ t.host = s.host ∧
    (drawCount i = 0 → t.hist = s.hist ∧ t.table = s.table)

/-- SEED and RDST never fault (60_exceptions.md section 2). That the three faults under their conditions are the only ones is
the spec's list there (decisions D18 and D20), that a read of an unwritten slot is Unseeded stands in 20_memory.md
section 1, and that the engine is seeded at an operand fault is the priority of 60_exceptions.md section 3 (decision
D18). -/
def Obligations.FaultsAreOnlyTheListedOnes : Prop :=
  ∀ (i : Instr) (s : State) (f : Fault), exec i s = .fault f →
    i.opcode ≠ 0x01 ∧ i.opcode ≠ 0x08 ∧
    ((f = .unseeded ∧ (s.seeded = false ∨ ¬ s.full)) ∨
      (f = .limitZero ∧ i = .bnd 0 ∧ s.seeded = true) ∨
      (∃ n, f = .bitsRange n ∧ i = .bits n ∧ (n = 0 ∨ 32 ≤ n.toNat) ∧ s.seeded = true))

/-- With `seeded = 0` every command but SEED and RDST is the fault Unseeded, whatever its operand (60_exceptions.md
sections 2 and 3, decision D18). -/
def Obligations.UnseededComesBeforeOperandFaults : Prop :=
  ∀ (i : Instr) (s : State), s.seeded = false → i.opcode ≠ 0x01 → i.opcode ≠ 0x08 →
    exec i s = .fault .unseeded

/-- On a seeded engine with a full table every command with legal operands has a next state. For the eight commands but SEED
that state is their completion: the response is given (30_encoding.md section 1: every accepted command that has a result
produces a response; decision D4; when the port shows it is entry 5), and the engine is left ready. For SEED it is the
acceptance alone (entry 11), with the command still in progress and no response: SEED's completion is
SeedRunsToTheStateOfTheRule. On an engine that is not ready, SEED's acceptance is SeedIsAlwaysAccepted and RDST's result
RdstAnswersTheRegister. -/
def Obligations.EveryCommandCompletesOnAReadyEngine : Prop :=
  ∀ (i : Instr) (s : State), s.ready → i.wellFormed = true → i ≠ .bnd 0 →
    (∀ n : BitVec 8, i = .bits n → 1 ≤ n.toNat ∧ n.toNat ≤ 31) →
    ∃ t, exec i s = .next t ∧ (i.opcode ≠ 0x01 → t.ready ∧ t.rsp.isSome = true)

/-- The responses of NEXT, BND, BITS, RDST and RDTB are zero-extended words, those of BIT a single bit (30_encoding.md
section 5, decision D3). -/
def Obligations.WordResponsesAreZeroExtended : Prop :=
  ∀ (i : Instr) (s t : State) (r : Rsp), exec i s = .next t → t.rsp = some r → i ≠ .u01 → i ≠ .f53 →
    r.toNat < 2 ^ 32 ∧ (i = .bit → r.toNat < 2)

/-! ## Diagnostic reads (44_diagnostic.md) -/

/-- R123: any number of diagnostic reads changes no state but the response port, and every command then does what it would
have done before them, with the same response. -/
def Obligations.DiagnosticReadsDisturbNothing : Prop :=
  ∀ (is : List Instr) (s t : State) (rs : List (Option Rsp)), (∀ i ∈ is, isDiagnostic i = true) →
    execAll is s = .next (rs, t) → t = s.setRsp t.rsp ∧ ∀ j : Instr, exec j t = exec j s

/-- R124: RDST answers the register its selector names, in every state, changes nothing else and never faults; before the
first SEED the six words are RESET_WORDS, for every choice of them; the words with selectors 6 and 7 are refused at
decode. -/
def Obligations.RdstAnswersTheRegister : Prop :=
  (∀ s : State,
    exec (.rdst 0) s = .next (s.setRsp (some (s.gen.s1.setWidth 64))) ∧
    exec (.rdst 1) s = .next (s.setRsp (some (s.gen.s2.setWidth 64))) ∧
    exec (.rdst 2) s = .next (s.setRsp (some (s.gen.s3.setWidth 64))) ∧
    exec (.rdst 3) s = .next (s.setRsp (some (s.hist.out.setWidth 64))) ∧
    exec (.rdst 4) s = .next (s.setRsp (some (s.hist.prev.setWidth 64))) ∧
    exec (.rdst 5) s = .next (s.setRsp (some (s.hist.pprev.setWidth 64))) ∧
    ∀ (sel : BitVec 3) (f : Fault), exec (.rdst sel) s ≠ .fault f) ∧
  (∀ rw : ResetWords,
    exec (.rdst 0) (State.resetWith rw) = .next ((State.resetWith rw).setRsp (some (rw.s1.setWidth 64))) ∧
    exec (.rdst 1) (State.resetWith rw) = .next ((State.resetWith rw).setRsp (some (rw.s2.setWidth 64))) ∧
    exec (.rdst 2) (State.resetWith rw) = .next ((State.resetWith rw).setRsp (some (rw.s3.setWidth 64))) ∧
    exec (.rdst 3) (State.resetWith rw) = .next ((State.resetWith rw).setRsp (some (rw.out.setWidth 64))) ∧
    exec (.rdst 4) (State.resetWith rw) = .next ((State.resetWith rw).setRsp (some (rw.prev.setWidth 64))) ∧
    exec (.rdst 5) (State.resetWith rw) = .next ((State.resetWith rw).setRsp (some (rw.pprev.setWidth 64)))) ∧
  ∀ sel : BitVec 3, 6 ≤ sel.toNat → decode (encode (.rdst sel)) = .error .reservedSelector

/-- R125: RDTB answers the slot's word and changes nothing else; with `seeded = 0` it is the fault Unseeded. -/
def Obligations.RdtbAnswersTheSlot : Prop :=
  ∀ (s : State) (i : Index),
    (s.seeded = false → exec (.rdtb i) s = .fault .unseeded) ∧
    ∀ v : Word, s.seeded = true → s.table.read i = some v →
      exec (.rdtb i) s = .next (s.setRsp (some (v.setWidth 64)))

/-- The two dumps as sequences of commands (30_encoding.md section 9, decision D14): six registers in selector order, then
16384 slots in index order, on a seeded engine with a full table. -/
def Obligations.DumpsListRegistersAndSlots : Prop :=
  ∀ s : State, s.ready →
    execAll (expand .dumpState) s = .next
      ([some (zext64 s.gen.s1), some (zext64 s.gen.s2), some (zext64 s.gen.s3), some (zext64 s.hist.out),
        some (zext64 s.hist.prev), some (zext64 s.hist.pprev)], s.setRsp (some (zext64 s.hist.pprev))) ∧
    ∃ rs t, execAll (expand .dumpTable) s = .next (rs, t) ∧ rs.length = 16384 ∧ t = s.setRsp t.rsp ∧
      ∀ i : Index, rs[i.toNat]? = some ((s.table.read i).map zext64)

/-! ## The invariant -/

/-- The state right after reset has the invariant, for every choice of RESET_WORDS; so has the machine's own. The clauses
on the form of the table and on the response port are the model's own (entries 2 and 5). -/
def Obligations.ResetHasTheInvariant : Prop :=
  (∀ rw : ResetWords, (State.resetWith rw).Inv) ∧ State.reset.Inv

/-- Every step that answers a next state keeps the invariant: the table's canonical form, the ranges of `cnt`, `busy`
exactly while the seeder works, the slots below `cnt` written during a fill, a full table and an idle machine whenever
`seeded`, no response while a command is in progress. The clauses are 10_state.md sections 3 to 5 and 9 and 42_seeder.md
section 2 (decisions D5, D19) with the model's own form of the table and of the response port (entries 2 and 5). -/
def Obligations.EveryStepKeepsTheInvariant : Prop :=
  ∀ s t : State, s.Inv → step s = .next t → t.Inv
end

