-- ==== Sys2Proof/Laws/State.lean ====
section
/-! SUPPORT. What each named update does to each field of State: one lemma per field per update. -/

namespace Sys2Proof.Machine

@[simp] theorem State.setGen_gen (s : State) (g : Gen) : (s.setGen g).gen = g := rfl
@[simp] theorem State.setGen_hist (s : State) (g : Gen) : (s.setGen g).hist = s.hist := rfl
@[simp] theorem State.setGen_table (s : State) (g : Gen) : (s.setGen g).table = s.table := rfl
@[simp] theorem State.setGen_phase (s : State) (g : Gen) : (s.setGen g).phase = s.phase := rfl
@[simp] theorem State.setGen_cnt (s : State) (g : Gen) : (s.setGen g).cnt = s.cnt := rfl
@[simp] theorem State.setGen_seeded (s : State) (g : Gen) : (s.setGen g).seeded = s.seeded := rfl
@[simp] theorem State.setGen_busy (s : State) (g : Gen) : (s.setGen g).busy = s.busy := rfl
@[simp] theorem State.setGen_rsp (s : State) (g : Gen) : (s.setGen g).rsp = s.rsp := rfl
@[simp] theorem State.setGen_host (s : State) (g : Gen) : (s.setGen g).host = s.host := rfl

@[simp] theorem State.setHist_gen (s : State) (h : Hist) : (s.setHist h).gen = s.gen := rfl
@[simp] theorem State.setHist_hist (s : State) (h : Hist) : (s.setHist h).hist = h := rfl
@[simp] theorem State.setHist_table (s : State) (h : Hist) : (s.setHist h).table = s.table := rfl
@[simp] theorem State.setHist_phase (s : State) (h : Hist) : (s.setHist h).phase = s.phase := rfl
@[simp] theorem State.setHist_cnt (s : State) (h : Hist) : (s.setHist h).cnt = s.cnt := rfl
@[simp] theorem State.setHist_seeded (s : State) (h : Hist) : (s.setHist h).seeded = s.seeded := rfl
@[simp] theorem State.setHist_busy (s : State) (h : Hist) : (s.setHist h).busy = s.busy := rfl
@[simp] theorem State.setHist_rsp (s : State) (h : Hist) : (s.setHist h).rsp = s.rsp := rfl
@[simp] theorem State.setHist_host (s : State) (h : Hist) : (s.setHist h).host = s.host := rfl

@[simp] theorem State.setTable_gen (s : State) (t : Memory) : (s.setTable t).gen = s.gen := rfl
@[simp] theorem State.setTable_hist (s : State) (t : Memory) : (s.setTable t).hist = s.hist := rfl
@[simp] theorem State.setTable_table (s : State) (t : Memory) : (s.setTable t).table = t := rfl
@[simp] theorem State.setTable_phase (s : State) (t : Memory) : (s.setTable t).phase = s.phase := rfl
@[simp] theorem State.setTable_cnt (s : State) (t : Memory) : (s.setTable t).cnt = s.cnt := rfl
@[simp] theorem State.setTable_seeded (s : State) (t : Memory) : (s.setTable t).seeded = s.seeded := rfl
@[simp] theorem State.setTable_busy (s : State) (t : Memory) : (s.setTable t).busy = s.busy := rfl
@[simp] theorem State.setTable_rsp (s : State) (t : Memory) : (s.setTable t).rsp = s.rsp := rfl
@[simp] theorem State.setTable_host (s : State) (t : Memory) : (s.setTable t).host = s.host := rfl

@[simp] theorem State.setSeq_gen (s : State) (p : Phase) (c : BitVec 14) : (s.setSeq p c).gen = s.gen := rfl
@[simp] theorem State.setSeq_hist (s : State) (p : Phase) (c : BitVec 14) : (s.setSeq p c).hist = s.hist := rfl
@[simp] theorem State.setSeq_table (s : State) (p : Phase) (c : BitVec 14) : (s.setSeq p c).table = s.table := rfl
@[simp] theorem State.setSeq_phase (s : State) (p : Phase) (c : BitVec 14) : (s.setSeq p c).phase = p := rfl
@[simp] theorem State.setSeq_cnt (s : State) (p : Phase) (c : BitVec 14) : (s.setSeq p c).cnt = c := rfl
@[simp] theorem State.setSeq_seeded (s : State) (p : Phase) (c : BitVec 14) : (s.setSeq p c).seeded = s.seeded := rfl
@[simp] theorem State.setSeq_busy (s : State) (p : Phase) (c : BitVec 14) : (s.setSeq p c).busy = s.busy := rfl
@[simp] theorem State.setSeq_rsp (s : State) (p : Phase) (c : BitVec 14) : (s.setSeq p c).rsp = s.rsp := rfl
@[simp] theorem State.setSeq_host (s : State) (p : Phase) (c : BitVec 14) : (s.setSeq p c).host = s.host := rfl

@[simp] theorem State.setSeeded_gen (s : State) (b : Bool) : (s.setSeeded b).gen = s.gen := rfl
@[simp] theorem State.setSeeded_hist (s : State) (b : Bool) : (s.setSeeded b).hist = s.hist := rfl
@[simp] theorem State.setSeeded_table (s : State) (b : Bool) : (s.setSeeded b).table = s.table := rfl
@[simp] theorem State.setSeeded_phase (s : State) (b : Bool) : (s.setSeeded b).phase = s.phase := rfl
@[simp] theorem State.setSeeded_cnt (s : State) (b : Bool) : (s.setSeeded b).cnt = s.cnt := rfl
@[simp] theorem State.setSeeded_seeded (s : State) (b : Bool) : (s.setSeeded b).seeded = b := rfl
@[simp] theorem State.setSeeded_busy (s : State) (b : Bool) : (s.setSeeded b).busy = s.busy := rfl
@[simp] theorem State.setSeeded_rsp (s : State) (b : Bool) : (s.setSeeded b).rsp = s.rsp := rfl
@[simp] theorem State.setSeeded_host (s : State) (b : Bool) : (s.setSeeded b).host = s.host := rfl

@[simp] theorem State.setBusy_gen (s : State) (b : Bool) : (s.setBusy b).gen = s.gen := rfl
@[simp] theorem State.setBusy_hist (s : State) (b : Bool) : (s.setBusy b).hist = s.hist := rfl
@[simp] theorem State.setBusy_table (s : State) (b : Bool) : (s.setBusy b).table = s.table := rfl
@[simp] theorem State.setBusy_phase (s : State) (b : Bool) : (s.setBusy b).phase = s.phase := rfl
@[simp] theorem State.setBusy_cnt (s : State) (b : Bool) : (s.setBusy b).cnt = s.cnt := rfl
@[simp] theorem State.setBusy_seeded (s : State) (b : Bool) : (s.setBusy b).seeded = s.seeded := rfl
@[simp] theorem State.setBusy_busy (s : State) (b : Bool) : (s.setBusy b).busy = b := rfl
@[simp] theorem State.setBusy_rsp (s : State) (b : Bool) : (s.setBusy b).rsp = s.rsp := rfl
@[simp] theorem State.setBusy_host (s : State) (b : Bool) : (s.setBusy b).host = s.host := rfl

@[simp] theorem State.setRsp_gen (s : State) (r : Option Rsp) : (s.setRsp r).gen = s.gen := rfl
@[simp] theorem State.setRsp_hist (s : State) (r : Option Rsp) : (s.setRsp r).hist = s.hist := rfl
@[simp] theorem State.setRsp_table (s : State) (r : Option Rsp) : (s.setRsp r).table = s.table := rfl
@[simp] theorem State.setRsp_phase (s : State) (r : Option Rsp) : (s.setRsp r).phase = s.phase := rfl
@[simp] theorem State.setRsp_cnt (s : State) (r : Option Rsp) : (s.setRsp r).cnt = s.cnt := rfl
@[simp] theorem State.setRsp_seeded (s : State) (r : Option Rsp) : (s.setRsp r).seeded = s.seeded := rfl
@[simp] theorem State.setRsp_busy (s : State) (r : Option Rsp) : (s.setRsp r).busy = s.busy := rfl
@[simp] theorem State.setRsp_rsp (s : State) (r : Option Rsp) : (s.setRsp r).rsp = r := rfl
@[simp] theorem State.setRsp_host (s : State) (r : Option Rsp) : (s.setRsp r).host = s.host := rfl

@[simp] theorem State.setHost_gen (s : State) (h : List HostAct) : (s.setHost h).gen = s.gen := rfl
@[simp] theorem State.setHost_hist (s : State) (h : List HostAct) : (s.setHost h).hist = s.hist := rfl
@[simp] theorem State.setHost_table (s : State) (h : List HostAct) : (s.setHost h).table = s.table := rfl
@[simp] theorem State.setHost_phase (s : State) (h : List HostAct) : (s.setHost h).phase = s.phase := rfl
@[simp] theorem State.setHost_cnt (s : State) (h : List HostAct) : (s.setHost h).cnt = s.cnt := rfl
@[simp] theorem State.setHost_seeded (s : State) (h : List HostAct) : (s.setHost h).seeded = s.seeded := rfl
@[simp] theorem State.setHost_busy (s : State) (h : List HostAct) : (s.setHost h).busy = s.busy := rfl
@[simp] theorem State.setHost_rsp (s : State) (h : List HostAct) : (s.setHost h).rsp = s.rsp := rfl
@[simp] theorem State.setHost_host (s : State) (h : List HostAct) : (s.setHost h).host = h := rfl

/-- Two states are equal when their fields are. -/
theorem State.eq_of_fields {s t : State} (h1 : s.gen = t.gen) (h2 : s.hist = t.hist) (h3 : s.table = t.table)
    (h4 : s.phase = t.phase) (h5 : s.cnt = t.cnt) (h6 : s.seeded = t.seeded) (h7 : s.busy = t.busy)
    (h8 : s.rsp = t.rsp) (h9 : s.host = t.host) : s = t := by
  cases s
  cases t
  simp_all

end Sys2Proof.Machine
end

