-- ==== Sys2Proof/Laws/Memory.lean ====
section
/-! SUPPORT. The laws of the table's two primitives: what a read gives after a write, and that a write keeps the canonical
form (20_memory.md R33, R34). -/

namespace Sys2Proof.Machine

@[simp] theorem Memory.read_nil (i : Index) : Memory.read [] i = none := rfl

theorem Memory.lookup_cons_same (k : Nat) (v : Word) (t : Memory) : List.lookup k ((k, v) :: t) = some v := by
  simp [List.lookup]

theorem Memory.lookup_cons_other {j k : Nat} (v : Word) (t : Memory) (h : j ≠ k) :
    List.lookup j ((k, v) :: t) = List.lookup j t := by
  simp [List.lookup, beq_false_of_ne h]

theorem Memory.lookup_put (t : Memory) (k j : Nat) (v : Word) :
    (Memory.put k v t).lookup j = if j = k then some v else t.lookup j := by
  induction t with
  | nil =>
    by_cases h : j = k
    · subst h; simp [Memory.put]
    · rw [Memory.put, Memory.lookup_cons_other v [] h, if_neg h]
  | cons e rest ih =>
    obtain ⟨a, u⟩ := e
    rw [Memory.put]
    by_cases hj : j = k
    · subst hj
      rw [if_pos rfl]
      split_ifs with h1 h2
      · exact Memory.lookup_cons_same j v _
      · exact Memory.lookup_cons_same j v _
      · rw [Memory.lookup_cons_other u _ h2, ih, if_pos rfl]
    · rw [if_neg hj]
      split_ifs with h1 h2
      · exact Memory.lookup_cons_other v _ hj
      · subst h2
        rw [Memory.lookup_cons_other v _ hj, Memory.lookup_cons_other u _ hj]
      · by_cases ha : j = a
        · subst ha
          rw [Memory.lookup_cons_same, Memory.lookup_cons_same]
        · rw [Memory.lookup_cons_other u _ ha, Memory.lookup_cons_other u _ ha, ih, if_neg hj]

/-- A read after a write gives the written word at the written slot, and what it gave before at every other. -/
theorem Memory.read_write (t : Memory) (i j : Index) (v : Word) :
    (t.write i v).read j = if j = i then some v else t.read j := by
  simp [Memory.read, Memory.write, Memory.lookup_put, BitVec.toNat_inj]

@[simp] theorem Memory.read_write_same (t : Memory) (i : Index) (v : Word) : (t.write i v).read i = some v := by
  simp [Memory.read_write]

theorem Memory.read_write_other (t : Memory) {i j : Index} (v : Word) (h : j ≠ i) :
    (t.write i v).read j = t.read j := by
  simp [Memory.read_write, h]

/-- A slot that had a value has one after a write to any slot. -/
theorem Memory.isSome_write (t : Memory) (i j : Index) (v : Word) (h : (t.read j).isSome = true) :
    ((t.write i v).read j).isSome = true := by
  rw [Memory.read_write]
  split_ifs <;> simp [h]

theorem Memory.wfFrom_put (t : Memory) : ∀ (lo k : Nat) (v : Word), lo ≤ k → k < 16384 →
    Memory.wfFrom lo t = true → Memory.wfFrom lo (Memory.put k v t) = true := by
  induction t with
  | nil =>
    intro lo k v h1 h2 _
    simp [Memory.put, Memory.wfFrom, h1, h2]
  | cons e rest ih =>
    intro lo k v h1 h2 h
    obtain ⟨a, u⟩ := e
    simp only [Memory.wfFrom, Bool.and_eq_true, decide_eq_true_eq] at h
    obtain ⟨⟨ha, hb⟩, hr⟩ := h
    rw [Memory.put]
    split_ifs with h3 h4
    · simp [Memory.wfFrom, h1, h2, hr, hb]
      omega
    · subst h4
      simp [Memory.wfFrom, h1, h2, hr]
    · simp only [Memory.wfFrom, Bool.and_eq_true, decide_eq_true_eq]
      exact ⟨⟨ha, hb⟩, ih (a + 1) k v (by omega) h2 hr⟩

/-- A write keeps the canonical form. -/
theorem Memory.wf_write (t : Memory) (i : Index) (v : Word) (h : t.wf = true) : (t.write i v).wf = true :=
  Memory.wfFrom_put t 0 i.toNat v (Nat.zero_le _) i.isLt h

/-- A write is the one operation that changes a table, and the table right after reset is in canonical form. -/
theorem Memory.wf_reset : State.reset.table.wf = true := rfl

end Sys2Proof.Machine
end

