-- ==== Sys2Proof/Laws/Ops.lean ====
section
/-! SUPPORT. One lemma per shared operation that says all it can do: the raw step, the draw, several draws, the transform of
a draw, the response, and the seeder's micro-steps. -/

namespace Sys2Proof.Machine

@[simp] theorem rawStep_state (s : State) : (rawStep s).1 = s.setGen s.gen.step := rfl

@[simp] theorem rawStep_word (s : State) : (rawStep s).2 = s.gen.step.combine := rfl

@[simp] theorem afterDraw_gen (s : State) (x : Word) : (afterDraw s x).gen = s.gen.step := rfl
@[simp] theorem afterDraw_hist (s : State) (x : Word) : (afterDraw s x).hist = s.hist.shift x := rfl
@[simp] theorem afterDraw_table (s : State) (x : Word) :
    (afterDraw s x).table = s.table.write (slotIndex s.hist.pprev) s.gen.step.combine := rfl
@[simp] theorem afterDraw_phase (s : State) (x : Word) : (afterDraw s x).phase = s.phase := rfl
@[simp] theorem afterDraw_cnt (s : State) (x : Word) : (afterDraw s x).cnt = s.cnt := rfl
@[simp] theorem afterDraw_seeded (s : State) (x : Word) : (afterDraw s x).seeded = s.seeded := rfl
@[simp] theorem afterDraw_busy (s : State) (x : Word) : (afterDraw s x).busy = s.busy := rfl
@[simp] theorem afterDraw_rsp (s : State) (x : Word) : (afterDraw s x).rsp = s.rsp := rfl
@[simp] theorem afterDraw_host (s : State) (x : Word) : (afterDraw s x).host = s.host := rfl

/-- A draw from an unseeded engine faults. -/
theorem draw_unseeded {s : State} (h : s.seeded = false) : draw s = .error .unseeded := by
  simp [draw, h]

/-- A draw that selects a slot without a value faults. -/
theorem draw_unwritten {s : State} (h : s.table.read (slotIndex s.hist.pprev) = none) : draw s = .error .unseeded := by
  by_cases hs : s.seeded <;> simp [draw, hs, h]

/-- A draw from a seeded engine that selects a written slot answers the slot's word. -/
theorem draw_written {s : State} {x : Word} (hs : s.seeded = true)
    (h : s.table.read (slotIndex s.hist.pprev) = some x) : draw s = .ok (x, afterDraw s x) := by
  simp only [draw, hs, h, if_true]
  rfl

/-- Everything a draw that answers can have done. -/
theorem draw_cases {s s' : State} {x : Word} (h : draw s = .ok (x, s')) :
    s.seeded = true ∧ s.table.read (slotIndex s.hist.pprev) = some x ∧ s' = afterDraw s x := by
  by_cases hs : s.seeded = true
  · cases hr : s.table.read (slotIndex s.hist.pprev) with
    | none => rw [draw_unwritten hr] at h; cases h
    | some y =>
      rw [draw_written hs hr] at h
      cases h
      exact ⟨hs, rfl, rfl⟩
  · rw [draw_unseeded (by simpa using hs)] at h
    cases h

/-- A draw faults with nothing but Unseeded. -/
theorem draw_fault {s : State} {f : Fault} (h : draw s = .error f) : f = .unseeded := by
  by_cases hs : s.seeded = true
  · cases hr : s.table.read (slotIndex s.hist.pprev) with
    | none => rw [draw_unwritten hr] at h; cases h; rfl
    | some y => rw [draw_written hs hr] at h; cases h
  · rw [draw_unseeded (by simpa using hs)] at h
    cases h
    rfl

/-- Every draw from a seeded engine with a full table answers. -/
theorem draw_full {s : State} (hs : s.seeded = true) (h : ∀ i : Index, (s.table.read i).isSome = true) :
    ∃ x, s.table.read (slotIndex s.hist.pprev) = some x ∧ draw s = .ok (x, afterDraw s x) := by
  obtain ⟨x, hx⟩ := Option.isSome_iff_exists.mp (h (slotIndex s.hist.pprev))
  exact ⟨x, hx, draw_written hs hx⟩

@[simp] theorem draws_zero (s : State) : draws 0 s = .ok ([], s) := rfl

/-- Everything several draws that answer can have done: a draw, then the others. -/
theorem draws_succ_cases {n : Nat} {s s' : State} {xs : List Word} (h : draws (n + 1) s = .ok (xs, s')) :
    ∃ x s1 ys, draw s = .ok (x, s1) ∧ draws n s1 = .ok (ys, s') ∧ xs = x :: ys := by
  rw [draws] at h
  cases hd : draw s with
  | error f => rw [hd] at h; cases h
  | ok p =>
    obtain ⟨x, s1⟩ := p
    rw [hd] at h
    cases hds : draws n s1 with
    | error f => simp only [hds] at h; cases h
    | ok q =>
      obtain ⟨ys, s2⟩ := q
      simp only [hds] at h
      cases h
      exact ⟨x, s1, ys, rfl, hds, rfl⟩

/-- A draw and then others that answer. -/
theorem draws_succ {n : Nat} {s s1 s' : State} {x : Word} {ys : List Word} (h : draw s = .ok (x, s1))
    (hs : draws n s1 = .ok (ys, s')) : draws (n + 1) s = .ok (x :: ys, s') := by
  simp [draws, h, hs]

/-- Everything a response can be. -/
theorem respond_cases {r : Rsp} {s t : State} (h : respond r s = .next t) : t = s.setRsp (some r) := by
  cases h
  rfl

/-- A transform of a draw that answers. -/
theorem transform_ok {f : Word → Rsp} {s s' : State} {x : Word} (h : draw s = .ok (x, s')) :
    transform f s = .next (s'.setRsp (some (f x))) := by
  simp [transform, h, respond]

/-- A transform faults exactly as its draw does. -/
theorem transform_fault {f : Word → Rsp} {s : State} {e : Fault} (h : draw s = .error e) :
    transform f s = .fault e := by
  simp [transform, h, raise]

/-- Everything a transform of one draw that answers can have done. -/
theorem transform_cases {f : Word → Rsp} {s t : State} (h : transform f s = .next t) :
    ∃ x, s.seeded = true ∧ s.table.read (slotIndex s.hist.pprev) = some x ∧
      t = (afterDraw s x).setRsp (some (f x)) := by
  cases hd : draw s with
  | error e => rw [transform_fault hd] at h; cases h
  | ok p =>
    obtain ⟨x, s'⟩ := p
    rw [transform_ok hd] at h
    obtain ⟨hs, hr, rfl⟩ := draw_cases hd
    cases h
    exact ⟨x, hs, hr, rfl⟩

/-- The warm-up micro-step changes the units and the count alone. -/
theorem warmStep_eq (s : State) :
    warmStep s = if s.cnt = 127 then (s.setGen s.gen.step).setSeq .hist 0
      else (s.setGen s.gen.step).setSeq .warm (s.cnt + 1) := rfl

/-- The history micro-step changes the units, one history word and the count alone. -/
theorem histStep_eq (s : State) :
    histStep s = if s.cnt = 2
      then ((s.setGen s.gen.step).setHist (seedHist s.hist s.cnt s.gen.step.combine)).setSeq .fill 0
      else ((s.setGen s.gen.step).setHist (seedHist s.hist s.cnt s.gen.step.combine)).setSeq .hist (s.cnt + 1) := rfl

/-- The fill micro-step changes the units, one slot and the count, and at the last slot ends the command. -/
theorem fillStep_eq (s : State) :
    fillStep s = if s.cnt = 16383
      then ((((((s.setGen s.gen.step).setTable (s.table.write s.cnt s.gen.step.combine)).setSeq .idle 0).setSeeded
        true).setBusy false).setRsp (some 0))
      else ((s.setGen s.gen.step).setTable (s.table.write s.cnt s.gen.step.combine)).setSeq .fill (s.cnt + 1) := rfl

/-- Raw steps compose. -/
theorem Gen.iter_add (m n : Nat) (g : Gen) : Gen.iter (m + n) g = Gen.iter n (Gen.iter m g) := by
  induction m generalizing g with
  | zero => simp [Gen.iter]
  | succ m ih => rw [Nat.succ_add]; exact ih g.step

/-- One more raw step, at the end. -/
theorem Gen.iter_succ_end (n : Nat) (g : Gen) : Gen.iter (n + 1) g = (Gen.iter n g).step :=
  Gen.iter_add n 1 g

/-- Micro-steps compose. -/
theorem microSteps_add (m n : Nat) (s : State) : microSteps (m + n) s = microSteps n (microSteps m s) := by
  induction m generalizing s with
  | zero => simp [microSteps]
  | succ m ih => rw [Nat.succ_add]; exact ih (microStep s)

end Sys2Proof.Machine
end

