-- ==== Sys2Proof/Laws/Draws.lean ====
section
/-! SUPPORT. What several draws can do, and that no meaning reads the response port. -/

namespace Sys2Proof.Machine

/-- A draw from a ready engine leaves it ready. -/
theorem ready_afterDraw {s : State} (h : s.ready) (x : Word) : (afterDraw s x).ready :=
  ⟨h.1, fun i => Memory.isSome_write _ _ _ _ (h.2 i)⟩

/-- Every run of draws from a ready engine answers and leaves it ready. -/
theorem draws_ready (n : Nat) (s : State) (h : s.ready) : ∃ xs t, draws n s = .ok (xs, t) ∧ t.ready := by
  induction n generalizing s with
  | zero => exact ⟨[], s, rfl, h⟩
  | succ n ih =>
    obtain ⟨x, _, hd⟩ := draw_full h.1 h.2
    obtain ⟨xs, t, h1, h2⟩ := ih (afterDraw s x) (ready_afterDraw h x)
    exact ⟨x :: xs, t, draws_succ hd h1, h2⟩

/-- As many words as draws. -/
theorem draws_length {n : Nat} {s t : State} {xs : List Word} (h : draws n s = .ok (xs, t)) : xs.length = n := by
  induction n generalizing s xs with
  | zero => cases h; rfl
  | succ n ih =>
    obtain ⟨x, s1, ys, _, h2, rfl⟩ := draws_succ_cases h
    rw [List.length_cons, ih h2]

/-- Draws keep the canonical form of the table. -/
theorem draws_wf {n : Nat} {s t : State} {xs : List Word} (h : draws n s = .ok (xs, t)) (hw : s.table.wf = true) :
    t.table.wf = true := by
  induction n generalizing s xs with
  | zero => cases h; exact hw
  | succ n ih =>
    obtain ⟨x, s1, ys, h1, h2, rfl⟩ := draws_succ_cases h
    obtain ⟨_, _, rfl⟩ := draw_cases h1
    exact ih h2 (Memory.wf_write _ _ _ hw)

/-- Draws unwrite no slot. -/
theorem draws_isSome {n : Nat} {s t : State} {xs : List Word} (h : draws n s = .ok (xs, t)) (i : Index)
    (hi : (s.table.read i).isSome = true) : (t.table.read i).isSome = true := by
  induction n generalizing s xs with
  | zero => cases h; exact hi
  | succ n ih =>
    obtain ⟨x, s1, ys, h1, h2, rfl⟩ := draws_succ_cases h
    obtain ⟨_, _, rfl⟩ := draw_cases h1
    exact ih h2 (Memory.isSome_write _ _ _ _ hi)

/-- A draw does not read the response port. -/
theorem draw_setRsp (s : State) (r : Option Rsp) :
    draw (s.setRsp r) = (draw s).map (fun p => (p.1, p.2.setRsp r)) := by
  by_cases hs : s.seeded = true
  · cases hr : s.table.read (slotIndex s.hist.pprev) with
    | none => rw [draw_unwritten hr, draw_unwritten (s := s.setRsp r) hr]; rfl
    | some x => rw [draw_written hs hr, draw_written (s := s.setRsp r) hs hr]; rfl
  · have h : s.seeded = false := by simpa using hs
    rw [draw_unseeded h, draw_unseeded (s := s.setRsp r) h]
    rfl

/-- A transform does not read the response port. -/
theorem transform_setRsp (f : Word → Rsp) (s : State) (r : Option Rsp) : transform f (s.setRsp r) = transform f s := by
  rw [transform, transform, draw_setRsp]
  cases draw s <;> rfl

end Sys2Proof.Machine
end

