-- ==== Sys2Proof/Laws/PerInstr.lean ====
section
/-! SUPPORT. Statements about every command as syntax, one lemma per constructor. EncodeMatchesRow: a command's word lies
in its row of spec/opcode_table.json, `w AND mask = match` (30_encoding.md R56 to R64). -/

namespace Sys2Proof.Laws.EncodeMatchesRow

/-- The command's word, under its row's mask, is its row's match. -/
def Statement (i : Instr) : Prop := encode i &&& i.rowMask = i.rowMatch

/-- `packWord` under a mask, group by group. -/
theorem packWord_and (op op' : BitVec 8) (r : BitVec 24) (a2 a1 a0 b2 b1 b0 : Word) :
    packWord op a2 a1 a0 &&& (op' ++ (r ++ (b2 ++ (b1 ++ b0)))) =
      packWord (op &&& op') (a2 &&& b2) (a1 &&& b1) (a0 &&& b0) := by
  simp only [packWord]
  rw [BitVec.and_append, BitVec.and_append, BitVec.and_append, BitVec.and_append]
  simp

theorem seed (a0 a1 a2 : Word) : Statement (.seed a0 a1 a2) := by
  have h := packWord_and 0x01 0xFF 0xFFFFFF a2 a1 a0 0 0 0
  simpa [Statement, encode, Instr.rowMask, Instr.rowMatch, packWord] using h

theorem next : Statement .next := by
  unfold Statement
  decide

theorem u01 : Statement .u01 := by
  unfold Statement
  decide

theorem f53 : Statement .f53 := by
  unfold Statement
  decide

theorem bnd (limit : Word) : Statement (.bnd limit) := by
  have h := packWord_and 0x05 0xFF 0xFFFFFF 0 0 limit 0xFFFFFFFF 0xFFFFFFFF 0
  simpa [Statement, encode, Instr.rowMask, Instr.rowMatch, packWord] using h

theorem bits (n : BitVec 8) : Statement (.bits n) := by
  have h := packWord_and 0x06 0xFF 0xFFFFFF 0 0 (n.setWidth 32) 0xFFFFFFFF 0xFFFFFFFF 0xFFFFFF00
  have e : n.setWidth 32 &&& 0xFFFFFF00 = 0#32 := by revert n; decide
  rw [e] at h
  simpa [Statement, encode, Instr.rowMask, Instr.rowMatch, packWord] using h

theorem bit : Statement .bit := by
  unfold Statement
  decide

theorem rdst (sel : BitVec 3) : Statement (.rdst sel) := by
  revert sel
  unfold Statement
  decide

theorem rdtb (index : Index) : Statement (.rdtb index) := by
  have h := packWord_and 0x09 0xFF 0xFFFFFF 0 0 (index.setWidth 32) 0xFFFFFFFF 0xFFFFFFFF 0xFFFFC000
  have e : index.setWidth 32 &&& 0xFFFFC000 = 0#32 := by
    ext k hk
    interval_cases k <;> simp
  rw [e] at h
  simpa [Statement, encode, Instr.rowMask, Instr.rowMatch, packWord] using h

end Sys2Proof.Laws.EncodeMatchesRow
end

