-- ==== Sys2Proof/Laws/Seed.lean ====
section
/-! SUPPORT. The whole-command form of SEED, field by field, and the raw words it stores (42_seeder.md R95, R96). -/

namespace Sys2Proof.Machine

/-- The next raw word, at the end of a run of raw steps. -/
theorem rawWord_succ (g : Gen) (k : Nat) : rawWord g (k + 1) = (Gen.iter k g).step.combine := by
  rw [rawWord, Gen.iter_succ_end]

/-- Raw words after some raw steps. -/
theorem rawWord_iter (g : Gen) (m k : Nat) : rawWord (Gen.iter m g) k = rawWord g (m + k) := by
  rw [rawWord, rawWord, Gen.iter_add]

/-- The word at each slot of a fill. -/
theorem fillWords_lookup (n k : Nat) (g : Gen) (i : Nat) :
    (fillWords n k g).lookup i = if k ≤ i ∧ i < k + n then some (rawWord g (i - k + 1)) else none := by
  induction n generalizing k g with
  | zero => rw [if_neg (by omega)]; rfl
  | succ n ih =>
    rw [fillWords]
    by_cases hi : i = k
    · subst hi
      rw [Memory.lookup_cons_same, if_pos (by omega)]
      simp [rawWord, Gen.iter]
    · rw [Memory.lookup_cons_other _ _ hi, ih]
      by_cases h : k + 1 ≤ i ∧ i < k + 1 + n
      · rw [if_pos h, if_pos (by omega), show i - k + 1 = (i - (k + 1) + 1) + 1 by omega]
        rfl
      · rw [if_neg h, if_neg (by omega)]

/-- A fill is in canonical form. -/
theorem fillWords_wf (n k : Nat) (g : Gen) (h : k + n ≤ 16384) : Memory.wfFrom k (fillWords n k g) = true := by
  induction n generalizing k g with
  | zero => rfl
  | succ n ih =>
    simp [fillWords, Memory.wfFrom, ih (k + 1) g.step (by omega)]
    omega

theorem seedWhole_gen (a0 a1 a2 : Word) (s : State) : (seedWhole a0 a1 a2 s).gen = Gen.iter 16515 ⟨a0, a1, a2⟩ := by
  simp only [seedWhole, seedSteps]

theorem seedWhole_hist (a0 a1 a2 : Word) (s : State) :
    (seedWhole a0 a1 a2 s).hist =
      ⟨rawWord ⟨a0, a1, a2⟩ 129, rawWord ⟨a0, a1, a2⟩ 130, rawWord ⟨a0, a1, a2⟩ 131⟩ := by
  simp only [seedWhole, warmupSteps]

theorem seedWhole_table (a0 a1 a2 : Word) (s : State) :
    (seedWhole a0 a1 a2 s).table = fillWords 16384 0 (Gen.iter 131 ⟨a0, a1, a2⟩) := by
  simp only [seedWhole, fillSteps, warmupSteps, histSteps]

@[simp] theorem seedWhole_phase (a0 a1 a2 : Word) (s : State) : (seedWhole a0 a1 a2 s).phase = .idle := by
  simp only [seedWhole]
@[simp] theorem seedWhole_cnt (a0 a1 a2 : Word) (s : State) : (seedWhole a0 a1 a2 s).cnt = 0 := by
  simp only [seedWhole]
@[simp] theorem seedWhole_seeded (a0 a1 a2 : Word) (s : State) : (seedWhole a0 a1 a2 s).seeded = true := by
  simp only [seedWhole]
@[simp] theorem seedWhole_busy (a0 a1 a2 : Word) (s : State) : (seedWhole a0 a1 a2 s).busy = false := by
  simp only [seedWhole]
@[simp] theorem seedWhole_rsp (a0 a1 a2 : Word) (s : State) : (seedWhole a0 a1 a2 s).rsp = some 0 := by
  simp only [seedWhole]
/-- The host of a state given field by field. Stated apart, so that the kernel compares no other field. -/
theorem State.mk_host (g : Gen) (h : Hist) (t : Memory) (p : Phase) (c : BitVec 14) (b b' : Bool) (r : Option Rsp)
    (k : List HostAct) : (State.mk g h t p c b b' r k).host = k := rfl

@[simp] theorem seedWhole_host (a0 a1 a2 : Word) (s : State) : (seedWhole a0 a1 a2 s).host = s.host := by
  unfold seedWhole
  exact State.mk_host _ _ _ _ _ _ _ _ _

/-- The slots after a whole SEED. -/
theorem seedWhole_read (a0 a1 a2 : Word) (s : State) (i : Index) :
    (seedWhole a0 a1 a2 s).table.read i = some (rawWord ⟨a0, a1, a2⟩ (132 + i.toNat)) := by
  have h := i.isLt
  rw [seedWhole_table, Memory.read, fillWords_lookup, if_pos (by omega), rawWord_iter,
    show 131 + (i.toNat - 0 + 1) = 132 + i.toNat by omega]

/-- The table after a whole SEED is in canonical form. -/
theorem seedWhole_wf (a0 a1 a2 : Word) (s : State) : (seedWhole a0 a1 a2 s).table.wf = true := by
  rw [seedWhole_table]
  exact fillWords_wf _ _ _ (by omega)

/-- Every draw has a value after a whole SEED. -/
theorem seedWhole_ready (a0 a1 a2 : Word) (s : State) : (seedWhole a0 a1 a2 s).ready :=
  ⟨seedWhole_seeded a0 a1 a2 s, fun i => by rw [seedWhole_read]; rfl⟩

end Sys2Proof.Machine
end

