-- ==== Sys2Proof/Laws/Step.lean ====
section
/-! SUPPORT. Everything a step can do, and that a micro-step does not read the host. -/

namespace Sys2Proof.Machine

/-- Everything a step that answers can have done: a reset, a micro-step on its own, or the accepted command. -/
theorem step_cases {s t : State} (h : step s = .next t) :
    (rstIn s = true ∧ t = applyReset Config.resetWords (popHost s)) ∨
    (rstIn s = false ∧ (s.phase ≠ .idle ∨ fetch s = none) ∧ t = microStep (waitHost s)) ∨
    (rstIn s = false ∧ s.phase = .idle ∧ ∃ i, fetch s = some (.ok i) ∧ exec i (popHost s) = .next t) := by
  rw [step] at h
  split_ifs at h with h1 h2
  · cases h
    exact .inl ⟨h1, rfl⟩
  · have h1' : rstIn s = false := by simpa using h1
    rw [idleStep] at h
    split at h
    · rename_i hf
      cases h
      exact .inr (.inl ⟨h1', .inr hf, rfl⟩)
    · cases h
    · rename_i i hf
      exact .inr (.inr ⟨h1', h2, i, hf, h⟩)
  · cases h
    exact .inr (.inl ⟨by simpa using h1, .inl h2, rfl⟩)

/-- A micro-step neither reads nor moves the host. -/
theorem microStep_setHost (s : State) (h : List HostAct) : microStep (s.setHost h) = (microStep s).setHost h := by
  cases hp : s.phase
  · simp only [microStep, State.setHost_phase, hp]
    rfl
  · simp only [microStep, State.setHost_phase, hp, warmStep_eq]
    split_ifs <;> first | rfl | contradiction
  · simp only [microStep, State.setHost_phase, hp, histStep_eq]
    split_ifs <;> first | rfl | contradiction
  · simp only [microStep, State.setHost_phase, hp, fillStep_eq]
    split_ifs <;> first | rfl | contradiction

end Sys2Proof.Machine
end

