-- ==== Sys2Proof/Tests/Slice0.lean ====
section
/-! SUPPORT. The model's own tests, small and on fixed values, and for every statement that has hypotheses a concrete state
and operands that meet them. The expected values are those of 95_test_vectors.md; the section is named at each group. -/

namespace Sys2Proof.Tests

open Sys2Proof Sys2Proof.Machine

/-! ## States for the tests -/

/-- The engine after SEED 2, 8, 16 (section 4.1), with one slot listed: the one the next draw selects, holding `x`. -/
def eng (x : Word) : State where
  gen := ⟨0x591CE9A7, 0xE73B0363, 0x53CAD38C⟩
  hist := ⟨0xBCAE10E4, 0xF0B38A4A, 0x52485BEC⟩
  table := [(5266, x)]
  phase := .idle
  cnt := 0
  seeded := true
  busy := false
  rsp := none
  host := []

/-- A seeded engine of zeros with slot 0 listed: every draw selects slot 0. -/
def zeros : State where
  gen := ⟨0, 0, 0⟩
  hist := ⟨0, 0, 0⟩
  table := [(0, 0)]
  phase := .idle
  cnt := 0
  seeded := true
  busy := false
  rsp := none
  host := []

/-- A seeder at work: SEED 2, 8, 16 accepted, and its machine put at `(p, c)`. -/
def work (p : Phase) (c : BitVec 14) : State where
  gen := ⟨2, 8, 16⟩
  hist := ⟨0, 0, 0⟩
  table := []
  phase := p
  cnt := c
  seeded := false
  busy := true
  rsp := none
  host := []

/-- The engine after a whole SEED 2, 8, 16 from reset. -/
def whole : State := seedWhole 2 8 16 State.reset

/-- The response of an outcome, `none` where there is no next state or no response. -/
def rspOf : Host.Outcome State Fault Refusal → Option Rsp
  | .next s => s.rsp
  | _ => none

/-- The fault of an outcome. -/
def faultOf : Host.Outcome State Fault Refusal → Option Fault
  | .fault f => some f
  | _ => none

/-- The refusal of an outcome. -/
def refusalOf : Host.Outcome State Fault Refusal → Option Refusal
  | .refused r => some r
  | _ => none

/-- The next state of an outcome. -/
def nextOf : Host.Outcome State Fault Refusal → Option State
  | .next s => some s
  | _ => none

/-! ## Well-formedness: the ill-formed terms are refused -/

theorem test_wf_rdst_6 : Instr.wellFormed (.rdst 6) = false := by decide
theorem test_wf_rdst_7 : Instr.wellFormed (.rdst 7) = false := by decide
theorem test_wf_rdst_5 : Instr.wellFormed (.rdst 5) = true := by decide

/-! ## Decoding and encoding, word by word (sections 7.1 and 7.2) -/

theorem test_decode_seed :
    decode 0x010000000FEDCBA99ABCDEF012345678 = .ok (.seed 0x12345678 0x9ABCDEF0 0x0FEDCBA9) := by rfl
theorem test_decode_next : decode 0x02000000000000000000000000000000 = .ok .next := by rfl
theorem test_decode_u01 : decode 0x03000000000000000000000000000000 = .ok .u01 := by rfl
theorem test_decode_f53 : decode 0x04000000000000000000000000000000 = .ok .f53 := by rfl
theorem test_decode_bnd : decode 0x050000000000000000000000000F4240 = .ok (.bnd 1000000) := by rfl
theorem test_decode_bits : decode 0x060000000000000000000000000000FF = .ok (.bits 255) := by rfl
theorem test_decode_bit : decode 0x07000000000000000000000000000000 = .ok .bit := by rfl
theorem test_decode_rdst : decode 0x08000000000000000000000000000005 = .ok (.rdst 5) := by rfl
theorem test_decode_rdtb : decode 0x09000000000000000000000000001492 = .ok (.rdtb 5266) := by rfl

theorem test_encode_seed : encode (.seed 2 8 16) = 0x01000000000000100000000800000002 := by decide
theorem test_encode_bnd : encode (.bnd 0xFFFFFFFF) = 0x050000000000000000000000FFFFFFFF := by decide
theorem test_encode_rdtb : encode (.rdtb 16383) = 0x09000000000000000000000000003FFF := by decide

theorem test_refuse_zero : decode 0x00000000000000000000000000000000 = .error .reservedOpcode := by rfl
theorem test_refuse_op_0A : decode 0x0A000000000000000000000000000000 = .error .reservedOpcode := by rfl
theorem test_refuse_op_FF : decode 0xFF000000000000000000000000000000 = .error .reservedOpcode := by rfl
theorem test_refuse_next_a0 : decode 0x02000000000000000000000000000001 = .error .unusedOperand := by rfl
theorem test_refuse_next_rsv : decode 0x02000001000000000000000000000000 = .error .reservedBits := by rfl
theorem test_refuse_seed_rsv : decode 0x01800000000000100000000800000002 = .error .reservedBits := by rfl
theorem test_refuse_bnd_a1 : decode 0x0500000000000000000000010000000A = .error .unusedOperand := by rfl
theorem test_refuse_bits_100 : decode 0x06000000000000000000000000000100 = .error .unusedOperand := by rfl
theorem test_refuse_bit_a2 : decode 0x07000000000000010000000000000000 = .error .unusedOperand := by rfl
theorem test_refuse_rdst_7 : decode 0x08000000000000000000000000000007 = .error .reservedSelector := by rfl
theorem test_refuse_rdst_8 : decode 0x08000000000000000000000000000008 = .error .unusedOperand := by rfl
theorem test_refuse_rdtb_16384 : decode 0x09000000000000000000000000004000 = .error .unusedOperand := by rfl

theorem test_table_word_bits : decodeTableWord 128 0x06000000000000000000000000000004 = some (.bits 4) := by rfl

/-! ## The feedback units and the raw step (sections 2.1, 3) -/

theorem test_taus1 : taus1 0x12345678 = 0x4567931F := by decide
theorem test_taus2 : taus2 0x12345678 = 0x234567AD := by decide
theorem test_taus3 : taus3 0x12345678 = 0xACF072DC := by decide
theorem test_taus1_top : taus1 0x80000000 = 0x00001000 := by decide
theorem test_raw_1 : rawWord ⟨2, 8, 16⟩ 1 = 0x00202080 := by decide
theorem test_raw_4 : rawWord ⟨0x12345678, 0x9ABCDEF0, 0x0FEDCBA9⟩ 4 = 0xCC5E09D5 := by decide

/-! ## SEED and the seeder's machine (section 4.2) -/

theorem test_seed_accepted : nextOf (exec (.seed 2 8 16) State.reset) = some (work .warm 0) := by decide
theorem test_warm_126 : (microStep (work .warm 126)).cnt = 127 := by decide
theorem test_warm_127 : (microStep (work .warm 127)).phase = .hist ∧ (microStep (work .warm 127)).cnt = 0 := by decide
theorem test_hist_1 : (microStep (work .hist 1)).hist = ⟨0, 0x00202080, 0⟩ := by decide
theorem test_hist_2 : (microStep (work .hist 2)).hist = ⟨0, 0, 0x00202080⟩ ∧
    (microStep (work .hist 2)).phase = .fill := by decide
theorem test_fill_7 : (microStep (work .fill 7)).table = [(7, 0x00202080)] := by decide
theorem test_fill_last : (microStep (work .fill 16383)).table = [(16383, 0x00202080)] ∧
    (microStep (work .fill 16383)).seeded = true ∧ (microStep (work .fill 16383)).busy = false ∧
    (microStep (work .fill 16383)).rsp = some 0 := by decide

/-! ## NEXT (section 5.1, the first row) -/

theorem test_next_response : rspOf (exec .next (eng 0x2A1F487A)) = some 0x000000002A1F487A := by decide
theorem test_next_state :
    (nextOf (exec .next (eng 0x2A1F487A))).map (fun t => (t.gen, t.hist, t.table)) =
      some (⟨0xCE9A7885, 0x73B0363D, 0xA719B389⟩, ⟨0x2A1F487A, 0xBCAE10E4, 0xF0B38A4A⟩, [(5266, 0x1A33FD31)]) := by
  decide

/-! ## Output transforms (sections 6.1 to 6.3) -/

theorem test_u01 : rspOf (exec .u01 (eng 0x7E061149)) = some 0x3FEF818452400000 := by decide
theorem test_u01_min : rspOf (exec .u01 (eng 0x80000000)) = some 0x3FEFFFFFFFC00000 := by decide
theorem test_bnd : rspOf (exec (.bnd 1000000) (eng 0xDEADBEEF)) = some 260322 := by decide
theorem test_bnd_exact : rspOf (exec (.bnd 0xFFFFFFFE) (eng 0x40000001)) = some 2147483648 := by decide
theorem test_bits_1 : rspOf (exec (.bits 1) (eng 0x80000000)) = some 1 := by decide
theorem test_bits_31 : rspOf (exec (.bits 31) (eng 0xDEADBEEF)) = some 0x6F56DF77 := by decide
theorem test_bit_half : rspOf (exec .bit (eng 0xC0000000)) = some 1 := by decide
theorem test_bit_below : rspOf (exec .bit (eng 0xC0000001)) = some 0 := by decide
theorem test_f53_skip : binary64 (f53Of (1 :: 0 :: List.replicate 51 0x80000000)) 53 = 0x3CB0000000000000 := by
  decide +kernel
theorem test_f53_last : binary64 (f53Of (List.replicate 52 0xFFFFFFFF ++ [0x7FFFFFFF])) 53 = 0x3FE0000000000000 := by
  decide +kernel

/-! ## Diagnostic reads -/

theorem test_rdst_5 : nextOf (exec (.rdst 5) (eng 0)) = some ((eng 0).setRsp (some 0x52485BEC)) := by decide
theorem test_rdst_6 : refusalOf (exec (.rdst 6) (eng 0)) = some (.noCommand .reservedSelector) := by decide
theorem test_rdtb : nextOf (exec (.rdtb 5266) (eng 7)) = some ((eng 7).setRsp (some 7)) := by decide

/-! ## Faults (section 6.4) -/

theorem test_next_unseeded : faultOf (exec .next State.reset) = some .unseeded := by decide
theorem test_bnd_0_unseeded : faultOf (exec (.bnd 0) State.reset) = some .unseeded := by decide
theorem test_bnd_0 : faultOf (exec (.bnd 0) zeros) = some .limitZero := by decide
theorem test_bits_32 : faultOf (exec (.bits 32) zeros) = some (.bitsRange 32) := by decide
theorem test_rdtb_unwritten : faultOf (exec (.rdtb 1) zeros) = some .unseeded := by decide

/-! ## The port and the step -/

theorem test_step_runs_the_word :
    rspOf (step (State.reset.withFetchWord 128 0x08000000000000000000000000000003)) = some 0 := by decide
theorem test_step_refuses : refusalOf (step (State.reset.withFetchWord 128 0)) = some (.noCommand .reservedOpcode) := by
  decide
theorem test_step_reset_wins :
    nextOf (step ((work .fill 9).setHost [.reset])) = some (State.reset) := by decide

/-! ## Witnesses: the hypotheses of each statement, met together -/

theorem wit_DecodeOfEncodeIsIdentity : Instr.wellFormed (.rdst 5) = true := by decide

theorem wit_EncodeOfDecodeIsIdentity : decode 0x060000000000000000000000000000FF = .ok (.bits 255) := test_decode_bits

theorem wit_DecoderAcceptsExactlyTheTableRows :
    (decode 0x08000000000000000000000000000005 = .ok (.rdst 5) ∧ (Instr.rdst 5).opcode = 0x08) ∧
    (0x08000000000000000000000000000005 : CmdWord) &&& (Instr.rdst 0).rowMask = (Instr.rdst 0).rowMatch ∧
      ((Instr.rdst 0).opcode = 0x08 →
        selectorOk ((0x08000000000000000000000000000005 : CmdWord).extractLsb' 0 3) = true) :=
  ⟨⟨test_decode_rdst, rfl⟩, by decide⟩

theorem wit_ReservedWordsSpellNoCommand :
    opField 0x00000000000000000000000000000000 = 0x00 ∧
    0x0A ≤ (opField 0x0A000000000000000000000000000000).toNat ∧
    rsvField 0x02000001000000000000000000000000 ≠ 0 ∧
    (opField 0x08000000000000000000000000000006 = 0x08 ∧
      6 ≤ ((a0Field 0x08000000000000000000000000000006).extractLsb' 0 3).toNat) := by decide

theorem wit_StepRunsTheAcceptedCommand :
    let s := (eng 7).setHost [.command 0x02000000000000000000000000000000]
    s.atRest ∧ s.host = .command 0x02000000000000000000000000000000 :: [] ∧
      decode 0x02000000000000000000000000000000 = .ok .next := ⟨⟨rfl, rfl⟩, rfl, rfl⟩

theorem wit_StepRefusesAWordThatSpellsNoCommand :
    let s := (eng 7).setHost [.command 0, .wait]
    s.atRest ∧ s.host = .command 0 :: [.wait] ∧ decode 0 = .error .reservedOpcode := ⟨⟨rfl, rfl⟩, rfl, rfl⟩

theorem wit_BusyEngineAcceptsNothing :
    let s := (work .fill 5).setHost [.command 0x02000000000000000000000000000000]
    s.busy = true ∧ s.host = .command 0x02000000000000000000000000000000 :: [] := ⟨rfl, rfl⟩

/-- A host that does nothing any more, and one that waits with a command to come. -/
theorem wit_IdleEngineHoldsItsState :
    ((eng 7).phase = .idle ∧ (eng 7).host = []) ∧
    (((eng 7).setHost [.wait, .command 0]).phase = .idle ∧
      ((eng 7).setHost [.wait, .command 0]).host = .wait :: [.command 0]) := ⟨⟨rfl, rfl⟩, rfl, rfl⟩

/-- Both ways a step completes a command, and a step that completes none. -/
theorem wit_ResponseExactlyAtCompletion :
    (nextOf (step (work .fill 16383))).isSome = true ∧
    (nextOf (step ((eng 7).setHost [.command 0x02000000000000000000000000000000]))).isSome = true ∧
    (nextOf (step (eng 7))).isSome = true := by decide

/-- The two rows from (IDLE, 0): a SEED accepted, another command accepted. -/
theorem wit_SeederFollowsItsTransitionTable_idle :
    let s := (eng 7).setHost [.command 0x01000000000000100000000800000002]
    let s' := (eng 7).setHost [.command 0x02000000000000000000000000000000]
    (rstIn s = false ∧ s.phase = .idle ∧ s.cnt = 0 ∧ s.busy = false ∧
      s.host = .command 0x01000000000000100000000800000002 :: [] ∧
      decode 0x01000000000000100000000800000002 = .ok (.seed 2 8 16)) ∧
    (rstIn s' = false ∧ s'.phase = .idle ∧ s'.cnt = 0 ∧ s'.busy = false ∧
      s'.host = .command 0x02000000000000000000000000000000 :: [] ∧
      decode 0x02000000000000000000000000000000 = .ok .next ∧ Instr.next.opcode ≠ 0x01 ∧ ∃ t, step s' = .next t) :=
  ⟨⟨rfl, rfl, rfl, rfl, rfl, rfl⟩, rfl, rfl, rfl, rfl, rfl, rfl, by decide, _, rfl⟩

/-- Each of the seven other rows, at the ends of its range of `cnt`. -/
theorem wit_SeederFollowsItsTransitionTable :
    (rstIn (work .warm 0) = false ∧ (work .warm 0).phase = .warm ∧ (work .warm 0).cnt.toNat < 127) ∧
    (rstIn (work .warm 126) = false ∧ (work .warm 126).phase = .warm ∧ (work .warm 126).cnt.toNat < 127) ∧
    (rstIn (work .warm 127) = false ∧ (work .warm 127).phase = .warm ∧ (work .warm 127).cnt = 127) ∧
    (rstIn (work .hist 0) = false ∧ (work .hist 0).phase = .hist ∧ (work .hist 0).cnt = 0) ∧
    (rstIn (work .hist 1) = false ∧ (work .hist 1).phase = .hist ∧ (work .hist 1).cnt = 1) ∧
    (rstIn (work .hist 2) = false ∧ (work .hist 2).phase = .hist ∧ (work .hist 2).cnt = 2) ∧
    (rstIn (work .fill 16382) = false ∧ (work .fill 16382).phase = .fill ∧ (work .fill 16382).cnt.toNat < 16383) ∧
    (rstIn (work .fill 16383) = false ∧ (work .fill 16383).phase = .fill ∧ (work .fill 16383).cnt = 16383) := by
  decide

theorem wit_RstWinsInEveryState :
    ((work .hist 1).setHost [.reset, .wait]).host = .reset :: [.wait] := rfl

/-- A slot without a value for the two faults, and a read that answers. -/
theorem wit_ReadGivesTheLastWrite :
    zeros.table.read 16383 = none ∧
    ({ zeros with table := [] } : State).table.read
      (slotIndex ({ zeros with table := [] } : State).hist.pprev) = none ∧
    exec (.rdtb 0) zeros = .next (zeros.setRsp (some 0)) := ⟨rfl, rfl, rfl⟩

theorem wit_CanonicalTablesThatReadAlikeAreEqual :
    Memory.wf [(0, 1), (16383, 2)] = true ∧
      ∀ i : Index, Memory.read [(0, 1), (16383, 2)] i = Memory.read [(0, 1), (16383, 2)] i :=
  ⟨by decide, fun _ => rfl⟩

theorem wit_NextIsOneShuffleStep :
    State.reset.seeded = false ∧ faultOf (exec .next State.reset) = some .unseeded ∧
      ((eng 7).seeded = true ∧ (eng 7).table.read ((eng 7).hist.pprev.extractLsb' 18 14) = some 7) := by decide

theorem wit_SwapReadsBeforeItWrites :
    ∃ t, exec .next (eng 7) = .next t := ⟨_, rfl⟩

theorem wit_HistoryHoldsTheLastThreeResponses : ∃ t, draws (0 + 3) zeros = .ok ([0, 0, 0], t) := ⟨_, rfl⟩

theorem wit_DrawsConserveWords : zeros.table.wf = true ∧ ∃ t, draws 2 zeros = .ok ([0, 0], t) := ⟨rfl, _, rfl⟩

/-- Units of zeros stay so. -/
theorem iter_zeros (n : Nat) : Gen.iter n ⟨0, 0, 0⟩ = ⟨0, 0, 0⟩ := by
  induction n with
  | zero => rfl
  | succ n ih => rw [Gen.iter_succ_end, ih]; decide

/-- The engine after SEED 0, 0, 0 (section 4.1), with operands at the ends of their ranges. -/
theorem wit_AllZeroStateAnswersZero :
    let s := seedWhole 0 0 0 State.reset
    s.seeded = true ∧ s.table.wf = true ∧ s.gen = ⟨0, 0, 0⟩ ∧ s.hist = ⟨0, 0, 0⟩ ∧
      (∀ i : Index, s.table.read i = some 0) ∧ (0xFFFFFFFF : Word) ≠ 0 ∧
      ((1 : BitVec 8) ≠ 0 ∧ (1 : BitVec 8).toNat < 32) ∧ ((31 : BitVec 8) ≠ 0 ∧ (31 : BitVec 8).toNat < 32) := by
  have r : ∀ k, rawWord ⟨0, 0, 0⟩ k = 0 := fun k => by rw [rawWord, iter_zeros]; decide
  refine ⟨seedWhole_seeded _ _ _ _, seedWhole_wf _ _ _ _, ?_, ?_, ?_, by decide, by decide, by decide⟩
  · rw [seedWhole_gen, iter_zeros]
  · rw [seedWhole_hist, r, r, r]
  · intro i
    rw [seedWhole_read, r]

theorem wit_SeedRunsToTheStateOfTheRule : (eng 7).table.wf = true := by decide

/-- A host that waits twice and then presents a command; one that does nothing more; one that waits 16515 times and then
asserts `rst`. -/
theorem wit_SeedTakes16516StepsToSeedWhole :
    ∀ p ∈ [(2, [HostAct.command (encode .next)]), (0, []), (16515, [.reset])],
      let s := (eng 7).setHost (.command (encode (.seed 2 8 16)) :: (List.replicate p.1 .wait ++ p.2))
      s.atRest ∧ s.table.wf = true ∧
        s.host = .command (encode (.seed 2 8 16)) :: (List.replicate p.1 .wait ++ p.2) ∧
        (16515 ≤ p.1 ∨ p.2 = [] ∨ ∃ w more, p.2 = .command w :: more) := by
  intro p hp
  refine ⟨⟨rfl, rfl⟩, rfl, rfl, ?_⟩
  simp only [List.mem_cons, List.not_mem_nil, or_false] at hp
  rcases hp with rfl | rfl | rfl
  · exact .inr (.inr ⟨_, _, rfl⟩)
  · exact .inr (.inl rfl)
  · exact .inl (le_refl _)

theorem wit_ReseedingForgetsThePast :
    (eng 7).table.wf = true ∧ State.reset.table.wf = true ∧ (eng 7).host = State.reset.host ∧
      (∃ t, exec (.seed 2 8 16) (eng 7) = .next t) ∧ ∃ t, exec (.seed 2 8 16) State.reset = .next t :=
  ⟨rfl, rfl, rfl, ⟨_, rfl⟩, _, rfl⟩

theorem wit_StreamIsAFunctionOfTheSeed :
    (eng 7).table.wf = true ∧ exec (.seed 2 8 16) (eng 7) =
      .next { eng 7 with gen := ⟨2, 8, 16⟩, seeded := false, busy := true, phase := .warm, cnt := 0 } := ⟨rfl, rfl⟩

/-- At `n = 0`; that the draws answer for every `n` is the statement StreamIsAFunctionOfTheSeed. -/
theorem wit_SlotsHoldRawWordsOfTheirSeed :
    (eng 7).table.wf = true ∧ ∃ t, exec (.seed 2 8 16) (eng 7) = .next t ∧
      draws 0 (microSteps 16515 t) = .ok ([], microSteps 16515 t) :=
  ⟨rfl, _, rfl, draws_zero _⟩

/-- Each of the three lines, at the ends of its range. -/
theorem wit_MagnitudeOfADraw :
    (0x7FFFFFFF : Word).toNat < 2 ^ 31 ∧ 2 ^ 31 < (0x80000001 : Word).toNat ∧ 2 ^ 31 < (0xFFFFFFFF : Word).toNat ∧
      (0x80000000 : Word).toNat = 2 ^ 31 := by decide

theorem wit_U01AnswersTheMagnitude :
    (eng 7).seeded = true ∧ (eng 7).table.read (slotIndex (eng 7).hist.pprev) = some 7 := by decide

theorem wit_F53AnswersFiftyThreeDraws : whole.ready := seedWhole_ready 2 8 16 State.reset

theorem wit_BndAnswersTheScaledMagnitude :
    ((eng 7).seeded = true ∧ (1 : Word) ≠ 0 ∧ (eng 7).table.read (slotIndex (eng 7).hist.pprev) = some 7) ∧
    ((eng 7).seeded = true ∧ (0 : Word) = 0) ∧ State.reset.seeded = false := by decide

theorem wit_BitsAnswersTheTopBits :
    ((eng 7).seeded = true ∧ (eng 7).table.read (slotIndex (eng 7).hist.pprev) = some 7 ∧
      (1 ≤ (1 : BitVec 8).toNat ∧ (1 : BitVec 8).toNat ≤ 31) ∧
      (1 ≤ (31 : BitVec 8).toNat ∧ (31 : BitVec 8).toNat ≤ 31)) ∧
    ((eng 7).seeded = true ∧ 32 ≤ (32 : BitVec 8).toNat ∧ 32 ≤ (255 : BitVec 8).toNat) ∧
    State.reset.seeded = false := by decide

theorem wit_BitIsOneForTheMiddleHalf :
    (eng 0x40000000).seeded = true ∧
      (eng 0x40000000).table.read (slotIndex (eng 0x40000000).hist.pprev) = some 0x40000000 := by decide

theorem wit_Binary64PatternIsExact :
    ((2 ^ 53 - 1 < 2 ^ 53 ∧ 53 ≤ 53) ∧ 2 ^ 53 - 1 ≠ 0) ∧ (0 < 2 ^ 0 ∧ 0 ≤ 53) := by decide

theorem wit_F53IntegerFormIsTheRecurrence : (List.replicate 53 (0x7FFFFFFF : Word)).length ≤ 53 := by decide

theorem wit_TransformsStayInRange :
    (∃ t, exec .u01 (eng 0x80000000) = .next t) ∧ (∃ t, exec .f53 zeros = .next t) ∧
    (∃ t, exec (.bnd 10) (eng 0x80000000) = .next t) ∧ (∃ t, exec (.bits 4) (eng 0xFFFFFFFF) = .next t) ∧
    ∃ t, exec .bit (eng 0x80000000) = .next t := ⟨⟨_, rfl⟩, ⟨_, rfl⟩, ⟨_, rfl⟩, ⟨_, rfl⟩, _, rfl⟩

theorem wit_TransformsLeaveWhatNextsLeave : 0 < drawCount .f53 ∧ ∃ t, exec .f53 zeros = .next t :=
  ⟨by decide, _, rfl⟩

theorem wit_DrawingCommandsChangeOnlyWhatTheyDraw :
    ((Instr.bnd 10).opcode ≠ 0x01 ∧ ∃ t, exec (.bnd 10) (eng 7) = .next t) ∧
    (drawCount (.rdst 3) = 0 ∧ ∃ t, exec (.rdst 3) (eng 7) = .next t) := ⟨⟨by decide, _, rfl⟩, rfl, _, rfl⟩

/-- Each kind of fault; Unseeded both by the flag and by an unwritten slot. -/
theorem wit_FaultsAreOnlyTheListedOnes :
    exec .next State.reset = .fault .unseeded ∧ exec (.rdtb 1) zeros = .fault .unseeded ∧
    exec (.bnd 0) zeros = .fault .limitZero ∧ exec (.bits 0) zeros = .fault (.bitsRange 0) := ⟨rfl, rfl, rfl, rfl⟩

theorem wit_UnseededComesBeforeOperandFaults :
    State.reset.seeded = false ∧ (Instr.bits 0).opcode ≠ 0x01 ∧ (Instr.bits 0).opcode ≠ 0x08 := by decide

theorem wit_EveryCommandCompletesOnAReadyEngine :
    whole.ready ∧ (Instr.bits 31).wellFormed = true ∧ Instr.bits 31 ≠ .bnd 0 ∧
      ∀ n : BitVec 8, Instr.bits 31 = .bits n → 1 ≤ n.toNat ∧ n.toNat ≤ 31 :=
  ⟨seedWhole_ready 2 8 16 State.reset, rfl, by decide, fun n h => by cases h; decide⟩

theorem wit_WordResponsesAreZeroExtended :
    ∃ t, exec .bit (eng 0x40000000) = .next t ∧ t.rsp = some 1 ∧ Instr.bit ≠ .u01 ∧ Instr.bit ≠ .f53 :=
  ⟨_, rfl, rfl, by decide, by decide⟩

theorem wit_DiagnosticReadsDisturbNothing :
    (∀ i ∈ [Instr.rdst 0, .rdtb 0], isDiagnostic i = true) ∧
      execAll [.rdst 0, .rdtb 0] zeros = .next ([some 0, some 0], zeros.setRsp (some 0)) := ⟨by decide, rfl⟩

theorem wit_RdstAnswersTheRegister : 6 ≤ (6 : BitVec 3).toNat ∧ 6 ≤ (7 : BitVec 3).toNat := by decide

theorem wit_RdtbAnswersTheSlot :
    State.reset.seeded = false ∧ ((eng 7).seeded = true ∧ (eng 7).table.read 5266 = some 7) := by decide

theorem wit_DumpsListRegistersAndSlots : whole.ready := seedWhole_ready 2 8 16 State.reset

/-- A seeder in its warm-up has the invariant, and steps. -/
theorem wit_EveryStepKeepsTheInvariant : (work .warm 127).Inv ∧ ∃ t, step (work .warm 127) = .next t := by
  refine ⟨⟨rfl, by decide, by decide, ?_, ?_, ?_, ?_⟩, _, rfl⟩
  · intro h; cases h
  · intro h; cases h
  · intro h; cases h
  · intro h; cases h

end Sys2Proof.Tests
end

/-! PROOFS. The shuffle table (20_memory.md): what a read gives after a list of writes, and what the two commands that read
the table, RDTB and NEXT, can do. -/

namespace Sys2Proof.Machine

/-! ## Reads after a list of writes (R33) -/

theorem afterWrites_append_singleton (ws : List (Index × Word)) (p : Index × Word) :
    afterWrites (ws ++ [p]) = (afterWrites ws).write p.1 p.2 := by
  simp [afterWrites, List.foldl_append]

/-- The writes, latest first, are an association list for the reads: the first entry of a slot is its last write. -/
theorem afterWrites_read (ws : List (Index × Word)) (i : Index) :
    (afterWrites ws).read i = ws.reverse.lookup i := by
  induction ws using List.reverseRecOn with
  | nil => rfl
  | append_singleton ws p ih =>
    obtain ⟨k, v⟩ := p
    rw [afterWrites_append_singleton, Memory.read_write, List.reverse_concat, ih]
    by_cases h : i = k
    · rw [h, if_pos rfl, List.lookup_cons_self]
    · rw [if_neg h, List.lookup_cons, beq_false_of_ne h]

/-! ## RDTB (R125) -/

theorem exec_rdtb_eq (i : Index) (s : State) : exec (.rdtb i) s = execRdtb i s := rfl

theorem execRdtb_unseeded {s : State} (i : Index) (h : s.seeded = false) : execRdtb i s = .fault .unseeded := by
  simp [execRdtb, h, raise]

theorem execRdtb_unwritten {s : State} {i : Index} (h : s.table.read i = none) :
    execRdtb i s = .fault .unseeded := by
  cases hs : s.seeded with
  | false => exact execRdtb_unseeded i hs
  | true => simp [execRdtb, hs, h, raise]

theorem execRdtb_written {s : State} {i : Index} {v : Word} (hs : s.seeded = true)
    (h : s.table.read i = some v) : execRdtb i s = .next (s.setRsp (some (zext64 v))) := by
  simp [execRdtb, hs, h, respond]

/-- Everything a diagnostic read of the table that answers can have done. -/
theorem execRdtb_cases {s t : State} {i : Index} (h : execRdtb i s = .next t) :
    ∃ v, s.seeded = true ∧ s.table.read i = some v ∧ t = s.setRsp (some (zext64 v)) := by
  cases hs : s.seeded with
  | false => rw [execRdtb_unseeded i hs] at h; cases h
  | true =>
    cases hr : s.table.read i with
    | none => rw [execRdtb_unwritten hr] at h; cases h
    | some v =>
      rw [execRdtb_written hs hr] at h
      cases h
      exact ⟨v, rfl, rfl, rfl⟩

/-! ## NEXT (R86) -/

theorem exec_next_eq (s : State) : exec .next s = transform zext64 s := rfl

theorem exec_next_unwritten {s : State} (h : s.table.read (slotIndex s.hist.pprev) = none) :
    exec .next s = .fault .unseeded := by
  rw [exec_next_eq, transform_fault (draw_unwritten h)]

/-! ## The statements -/

/-- Settles O14: the last write by induction on the writes from the end; the two reads by what RDTB and a draw can do. -/
theorem readGivesTheLastWrite : Obligations.ReadGivesTheLastWrite := by
  refine ⟨afterWrites_read, fun s i h => ?_, fun s h => exec_next_unwritten h, fun s t i h => ?_⟩
  · rw [exec_rdtb_eq, execRdtb_unwritten h]
  · rw [exec_rdtb_eq] at h
    obtain ⟨v, -, hread, rfl⟩ := execRdtb_cases h
    exact ⟨rfl, v, hread, rfl⟩

/-- Settles O23: NEXT is a transform of one draw, whose table is the old one after a write of the raw word at the slot that
was read (R36). -/
theorem swapReadsBeforeItWrites : Obligations.SwapReadsBeforeItWrites := by
  intro s t h
  rw [exec_next_eq] at h
  obtain ⟨y, -, hread, rfl⟩ := transform_cases h
  refine ⟨⟨y, hread, rfl⟩, ?_, fun j hj => ?_⟩
  · exact Memory.read_write_same _ _ _
  · exact Memory.read_write_other _ _ hj

end Sys2Proof.Machine

/-! PROOFS. The feedback units and the raw step (40_feedback_units.md): the two shifts and the common form of the three
units as arithmetic modulo 2^32, and what a raw step gives. -/

namespace Sys2Proof.Machine

/-! ## The shifts in numbers (R11) -/

@[simp] theorem shl_toNat (a : Word) (k : Nat) : (shl a k).toNat = a.toNat * 2 ^ k % 2 ^ 32 := by
  rw [shl, BitVec.toNat_shiftLeft, Nat.shiftLeft_eq]

@[simp] theorem shr_toNat (a : Word) (k : Nat) : (shr a k).toNat = a.toNat / 2 ^ k := by
  rw [shr, BitVec.toNat_ushiftRight, Nat.shiftRight_eq_div_pow]

/-! ## The common form of the units (R74) -/

/-- The form `T` for any constants: the two left shifts are cut to 32 bits before the XORs, the right shift is a division. -/
theorem feedback_toNat (u : UnitConsts) (s : Word) :
    (feedback u s).toNat =
      ((s.toNat &&& u.maskA.toNat) * 2 ^ u.shiftA % 2 ^ 32) ^^^
        (((s.toNat * 2 ^ u.shiftB % 2 ^ 32) ^^^ s.toNat) / 2 ^ u.shiftC) := by
  simp only [feedback, BitVec.toNat_xor, BitVec.toNat_and, shl_toNat, shr_toNat]

/-! ## The raw step (R82) -/

theorem Gen.step_eq (g : Gen) : g.step = ⟨taus1 g.s1, taus2 g.s2, taus3 g.s3⟩ := rfl

theorem Gen.combine_step (g : Gen) : g.step.combine = taus1 g.s1 ^^^ taus2 g.s2 ^^^ taus3 g.s3 := rfl

/-! ## The statements -/

/-- Settles O17: the common form in numbers, at the constants of each unit (R75). -/
theorem unitsComputeTheirFormulasModulo2Pow32 : Obligations.UnitsComputeTheirFormulasModulo2Pow32 :=
  fun s => ⟨feedback_toNat unit1 s, feedback_toNat unit2 s, feedback_toNat unit3 s⟩

/-- Settles O21: the state and the word of a raw step are those of the updated units. -/
theorem rawStepUsesTheUpdatedWords : Obligations.RawStepUsesTheUpdatedWords := by
  intro s
  refine Prod.ext ?_ ?_
  · rw [rawStep_state, Gen.step_eq]
    rfl
  · rw [rawStep_word, Gen.combine_step]

end Sys2Proof.Machine

/-! PROOFS. NEXT, the shuffle step (41_shuffle_step.md): the slot it selects as a bit field, the faults of a transform of one
draw, and the state one draw leaves written out field by field. -/

namespace Sys2Proof.Machine

/-- The selected slot as the field `pprev[31:18]` (R86, R39). -/
theorem slotIndex_eq_extractLsb' (v : Word) : slotIndex v = v.extractLsb' 18 14 := by
  refine BitVec.eq_of_getElem_eq fun i _ => ?_
  simp [slotIndex, shr, indexShift]

/-- A transform that faults has the fault of its draw: the response to the word drawn cannot fault. -/
theorem transform_fault_cases {f : Word → Rsp} {s : State} {e : Fault} (h : transform f s = .fault e) :
    draw s = .error e := by
  cases hd : draw s with
  | error e' =>
    rw [transform_fault hd] at h
    cases h
    rfl
  | ok p =>
    rw [transform_ok hd] at h
    cases h

theorem exec_next_unseeded {s : State} (h : s.seeded = false) : exec .next s = .fault .unseeded := by
  rw [exec_next_eq, transform_fault (draw_unseeded h)]

/-- NEXT has no other fault than that of its draw (R86). -/
theorem exec_next_fault {s : State} {f : Fault} (h : exec .next s = .fault f) : f = .unseeded := by
  rw [exec_next_eq] at h
  exact draw_fault (transform_fault_cases h)

theorem exec_next_written {s : State} {y : Word} (hs : s.seeded = true)
    (h : s.table.read (slotIndex s.hist.pprev) = some y) :
    exec .next s = .next ((afterDraw s y).setRsp (some (zext64 y))) := by
  rw [exec_next_eq, transform_ok (draw_written hs h)]

/-- Settles O22: NEXT is a transform of one draw, so its faults are the draw's, and its next state is the state after the
draw at the slot `pprev[31:18]`, with the word drawn on the port. -/
theorem nextIsOneShuffleStep : Obligations.NextIsOneShuffleStep := by
  intro s
  refine ⟨exec_next_unseeded, fun _ => exec_next_fault, fun y hs hread => ?_⟩
  rw [← slotIndex_eq_extractLsb'] at hread ⊢
  rw [exec_next_written hs hread]
  rfl

end Sys2Proof.Machine

/-! PROOFS. BITS, the top bits of a draw (43_output_transforms.md R118): a shifted word's range, and the three outcomes of
the command by `seeded` and its operand. -/

namespace Sys2Proof.Machine

/-- A right shift by `32 - n` leaves at most `n` bits. -/
theorem shr_sub_toNat_lt (x : Word) {n : Nat} (h : n ≤ 32) : (shr x (32 - n)).toNat < 2 ^ n := by
  have hsplit : 2 ^ (32 - n) * 2 ^ n = 2 ^ 32 := by rw [← pow_add, Nat.sub_add_cancel h]
  rw [shr_toNat]
  exact Nat.div_lt_of_lt_mul (hsplit ▸ x.isLt)

/-! ## BITS, outcome by outcome (R118, R131) -/

theorem exec_bits_eq (n : BitVec 8) (s : State) : exec (.bits n) s = execBits n s := rfl

theorem execBits_unseeded {s : State} (n : BitVec 8) (hs : s.seeded = false) :
    execBits n s = .fault .unseeded := by
  simp [execBits, hs, raise]

theorem execBits_out_of_range {s : State} {n : BitVec 8} (hs : s.seeded = true) (hn : n = 0 ∨ 32 ≤ n.toNat) :
    execBits n s = .fault (.bitsRange n) := by
  rw [execBits, if_neg (by simp [hs]), if_pos hn, raise]

/-- With a legal operand on a seeded engine BITS is a transform of one draw. -/
theorem execBits_in_range {s : State} {n : BitVec 8} (hs : s.seeded = true) (h1 : 1 ≤ n.toNat)
    (h31 : n.toNat ≤ 31) : execBits n s = transform (bitsOf n) s := by
  have hn : ¬ (n = 0 ∨ 32 ≤ n.toNat) := by
    rintro (rfl | h32)
    · exact absurd h1 (by decide)
    · omega
  rw [execBits, if_neg (by simp [hs]), if_neg hn]

/-- Settles O37: with a legal operand BITS is a transform of one draw, whose response is the draw's right shift by
`32 - n`; Unseeded is tested before BitsRange. -/
theorem bitsAnswersTheTopBits : Obligations.BitsAnswersTheTopBits := by
  intro s n
  simp only [exec_bits_eq]
  refine ⟨fun y hs h1 h31 hread => ?_, execBits_out_of_range, execBits_unseeded n⟩
  refine ⟨shr y (32 - n.toNat), ?_, shr_toNat y _, shr_sub_toNat_lt y (by omega)⟩
  rw [execBits_in_range hs h1 h31, transform_ok (draw_written hs hread), bitsOf, zext64]

end Sys2Proof.Machine

/-! PROOFS. The diagnostic reads (44_diagnostic.md): what RDST and RDTB answer, that no command reads the response port, and
that a run of diagnostic reads moves nothing else. -/

namespace Sys2Proof.Machine

/-! ## The response port -/

@[simp] theorem State.setRsp_setRsp (s : State) (r r' : Option Rsp) : (s.setRsp r).setRsp r' = s.setRsp r' := rfl

@[simp] theorem State.setRsp_self (s : State) : s.setRsp s.rsp = s := rfl

@[simp] theorem readReg_setRsp (s : State) (r : Option Rsp) (x : Reg) : readReg (s.setRsp r) x = readReg s x := by
  cases x <;> rfl

/-- Several draws do not read the response port: they only carry it along. -/
theorem draws_setRsp (n : Nat) (s : State) (r : Option Rsp) :
    draws n (s.setRsp r) = (draws n s).map (fun p => (p.1, p.2.setRsp r)) := by
  induction n generalizing s with
  | zero => rfl
  | succ n ih =>
    rw [draws, draws, draw_setRsp]
    cases draw s with
    | error f => rfl
    | ok p =>
      simp only [Except.map, ih]
      cases draws n p.2 <;> rfl

theorem execF53_setRsp (s : State) (r : Option Rsp) : execF53 (s.setRsp r) = execF53 s := by
  rw [execF53, execF53, draws_setRsp]
  cases draws f53Steps s <;> rfl

theorem execBnd_setRsp (limit : Word) (s : State) (r : Option Rsp) :
    execBnd limit (s.setRsp r) = execBnd limit s := by
  rw [execBnd, execBnd, State.setRsp_seeded, transform_setRsp]

theorem execBits_setRsp (n : BitVec 8) (s : State) (r : Option Rsp) :
    execBits n (s.setRsp r) = execBits n s := by
  rw [execBits, execBits, State.setRsp_seeded, transform_setRsp]

/-! ## RDST (R124) -/

theorem exec_rdst_named {sel : BitVec 3} {x : Reg} (h : regOfSel sel = some x) (s : State) :
    exec (.rdst sel) s = .next (s.setRsp (some (zext64 (readReg s x)))) := by
  simp [exec, execRdst, h, respond]

/-- A selector that names no register is refused, whatever the state. -/
theorem exec_rdst_reserved {sel : BitVec 3} (h : regOfSel sel = none) (s : State) :
    exec (.rdst sel) s = .refused (.noCommand .reservedSelector) := by
  simp [exec, execRdst, h]

/-- Everything a diagnostic read of a register that answers can have done. -/
theorem exec_rdst_cases {sel : BitVec 3} {s t : State} (h : exec (.rdst sel) s = .next t) :
    ∃ x, regOfSel sel = some x ∧ t = s.setRsp (some (zext64 (readReg s x))) := by
  cases hx : regOfSel sel with
  | none => rw [exec_rdst_reserved hx] at h; cases h
  | some x =>
    rw [exec_rdst_named hx] at h
    cases h
    exact ⟨x, rfl, rfl⟩

theorem exec_rdst_ne_fault (sel : BitVec 3) (s : State) (f : Fault) : exec (.rdst sel) s ≠ .fault f := by
  cases hx : regOfSel sel with
  | none => rw [exec_rdst_reserved hx]; exact nofun
  | some x => rw [exec_rdst_named hx]; exact nofun

/-- The decoder on RDST's own words: the selector's test is the one that can refuse them (R63, R68). -/
theorem decode_encode_rdst (sel : BitVec 3) :
    decode (encode (.rdst sel)) = if selectorOk sel then .ok (.rdst sel) else .error .reservedSelector := by
  revert sel
  decide

theorem decode_encode_rdst_reserved {sel : BitVec 3} (h : 6 ≤ sel.toNat) :
    decode (encode (.rdst sel)) = .error .reservedSelector := by
  have hsel : selectorOk sel = false := decide_eq_false (by omega)
  simp [decode_encode_rdst, hsel]

/-! ## No command reads the response port -/

/-- SEED clears it, the draws carry it along, and every response overwrites it. -/
theorem exec_setRsp (i : Instr) (s : State) (r : Option Rsp) : exec i (s.setRsp r) = exec i s := by
  cases i with
  | seed a0 a1 a2 => rfl
  | next => exact transform_setRsp zext64 s r
  | u01 => exact transform_setRsp u01Of s r
  | f53 => exact execF53_setRsp s r
  | bnd limit => exact execBnd_setRsp limit s r
  | bits n => exact execBits_setRsp n s r
  | bit => exact transform_setRsp bitOf s r
  | rdst sel =>
    cases hx : regOfSel sel with
    | none => rw [exec_rdst_reserved hx, exec_rdst_reserved hx]
    | some x => rw [exec_rdst_named hx, exec_rdst_named hx, readReg_setRsp, State.setRsp_setRsp]
  | rdtb index => rfl

/-! ## Runs of diagnostic reads (R123) -/

/-- Everything a command and then others that answer can have done. -/
theorem execAll_cons_cases {i : Instr} {is : List Instr} {s t : State} {rs : List (Option Rsp)}
    (h : execAll (i :: is) s = .next (rs, t)) :
    ∃ s1 rs1, exec i s = .next s1 ∧ execAll is s1 = .next (rs1, t) ∧ rs = s1.rsp :: rs1 := by
  rw [execAll] at h
  cases he : exec i s with
  | fault f => rw [he] at h; cases h
  | refused r => rw [he] at h; cases h
  | next s1 =>
    simp only [he] at h
    cases hes : execAll is s1 with
    | fault f => rw [hes] at h; cases h
    | refused r => rw [hes] at h; cases h
    | next p =>
      rw [hes] at h
      cases h
      exact ⟨s1, p.1, rfl, hes, rfl⟩

/-- A diagnostic read changes nothing but the response port. -/
theorem exec_diagnostic_frame {i : Instr} {s t : State} (hi : isDiagnostic i = true) (h : exec i s = .next t) :
    t = s.setRsp t.rsp := by
  cases i with
  | rdst sel =>
    obtain ⟨x, -, rfl⟩ := exec_rdst_cases h
    rfl
  | rdtb index =>
    obtain ⟨v, -, -, rfl⟩ := execRdtb_cases h
    rfl
  | _ => cases hi

/-- A run of diagnostic reads changes nothing but the response port. -/
theorem execAll_diagnostic_frame {is : List Instr} {s t : State} {rs : List (Option Rsp)}
    (hd : ∀ i ∈ is, isDiagnostic i = true) (h : execAll is s = .next (rs, t)) : t = s.setRsp t.rsp := by
  induction is generalizing s rs with
  | nil =>
    cases h
    exact (State.setRsp_self _).symm
  | cons i is ih =>
    obtain ⟨hi, his⟩ := List.forall_mem_cons.mp hd
    obtain ⟨s1, rs1, hexec, hrest, -⟩ := execAll_cons_cases h
    calc t = s1.setRsp t.rsp := ih his hrest
      _ = (s.setRsp s1.rsp).setRsp t.rsp := by rw [← exec_diagnostic_frame hi hexec]
      _ = s.setRsp t.rsp := State.setRsp_setRsp s _ _

/-! ## The statements -/

/-- Settles O48: a run of diagnostic reads moves the response port alone, by induction on the run, and no command reads that
port. -/
theorem diagnosticReadsDisturbNothing : Obligations.DiagnosticReadsDisturbNothing := by
  intro is s t rs hd h
  have hframe : t = s.setRsp t.rsp := execAll_diagnostic_frame hd h
  refine ⟨hframe, fun j => ?_⟩
  rw [hframe, exec_setRsp]

/-- Settles O49: each legal selector names its register in every state, so in the one right after reset too, where the
registers hold RESET_WORDS; a selector of 6 or 7 fails the decoder's test. -/
theorem rdstAnswersTheRegister : Obligations.RdstAnswersTheRegister := by
  refine ⟨fun s => ⟨?_, ?_, ?_, ?_, ?_, ?_, fun sel => exec_rdst_ne_fault sel s⟩,
    fun words => ⟨?_, ?_, ?_, ?_, ?_, ?_⟩, fun sel => decode_encode_rdst_reserved⟩
  · exact exec_rdst_named (x := .s1) rfl s
  · exact exec_rdst_named (x := .s2) rfl s
  · exact exec_rdst_named (x := .s3) rfl s
  · exact exec_rdst_named (x := .out) rfl s
  · exact exec_rdst_named (x := .prev) rfl s
  · exact exec_rdst_named (x := .pprev) rfl s
  · exact exec_rdst_named (x := .s1) rfl (State.resetWith words)
  · exact exec_rdst_named (x := .s2) rfl (State.resetWith words)
  · exact exec_rdst_named (x := .s3) rfl (State.resetWith words)
  · exact exec_rdst_named (x := .out) rfl (State.resetWith words)
  · exact exec_rdst_named (x := .prev) rfl (State.resetWith words)
  · exact exec_rdst_named (x := .pprev) rfl (State.resetWith words)

/-- Settles O50: RDTB on an unseeded engine, and on a seeded one at a written slot. -/
theorem rdtbAnswersTheSlot : Obligations.RdtbAnswersTheSlot :=
  fun _ i => ⟨execRdtb_unseeded i, fun _ => execRdtb_written⟩

end Sys2Proof.Machine

/-! PROOFS. The decoder and the encoder (30_encoding.md): the fields of a packed word and a word as the pack of its
fields, what the decoder answers on each opcode, and the rows of the opcode table read field by field. -/

namespace Sys2Proof.Machine

/-! ## The fields of a command word (R53) -/

theorem opField_append (op : BitVec 8) (r : BitVec 24) (a2 a1 a0 : Word) :
    opField (op ++ (r ++ (a2 ++ (a1 ++ a0)))) = op :=
  BitVec.extractLsb'_append_eq_left

theorem rsvField_append (op : BitVec 8) (r : BitVec 24) (a2 a1 a0 : Word) :
    rsvField (op ++ (r ++ (a2 ++ (a1 ++ a0)))) = r :=
  calc rsvField (op ++ (r ++ (a2 ++ (a1 ++ a0))))
    _ = (r ++ (a2 ++ (a1 ++ a0))).extractLsb' 96 24 := BitVec.extractLsb'_append_eq_of_add_le (by decide)
    _ = r := BitVec.extractLsb'_append_eq_left

theorem a2Field_append (op : BitVec 8) (r : BitVec 24) (a2 a1 a0 : Word) :
    a2Field (op ++ (r ++ (a2 ++ (a1 ++ a0)))) = a2 :=
  calc a2Field (op ++ (r ++ (a2 ++ (a1 ++ a0))))
    _ = (r ++ (a2 ++ (a1 ++ a0))).extractLsb' 64 32 := BitVec.extractLsb'_append_eq_of_add_le (by decide)
    _ = (a2 ++ (a1 ++ a0)).extractLsb' 64 32 := BitVec.extractLsb'_append_eq_of_add_le (by decide)
    _ = a2 := BitVec.extractLsb'_append_eq_left

theorem a1Field_append (op : BitVec 8) (r : BitVec 24) (a2 a1 a0 : Word) :
    a1Field (op ++ (r ++ (a2 ++ (a1 ++ a0)))) = a1 :=
  calc a1Field (op ++ (r ++ (a2 ++ (a1 ++ a0))))
    _ = (r ++ (a2 ++ (a1 ++ a0))).extractLsb' 32 32 := BitVec.extractLsb'_append_eq_of_add_le (by decide)
    _ = (a2 ++ (a1 ++ a0)).extractLsb' 32 32 := BitVec.extractLsb'_append_eq_of_add_le (by decide)
    _ = (a1 ++ a0).extractLsb' 32 32 := BitVec.extractLsb'_append_eq_of_add_le (by decide)
    _ = a1 := BitVec.extractLsb'_append_eq_left

theorem a0Field_append (op : BitVec 8) (r : BitVec 24) (a2 a1 a0 : Word) :
    a0Field (op ++ (r ++ (a2 ++ (a1 ++ a0)))) = a0 :=
  calc a0Field (op ++ (r ++ (a2 ++ (a1 ++ a0))))
    _ = (r ++ (a2 ++ (a1 ++ a0))).extractLsb' 0 32 := BitVec.extractLsb'_append_eq_of_add_le (by decide)
    _ = (a2 ++ (a1 ++ a0)).extractLsb' 0 32 := BitVec.extractLsb'_append_eq_of_add_le (by decide)
    _ = (a1 ++ a0).extractLsb' 0 32 := BitVec.extractLsb'_append_eq_of_add_le (by decide)
    _ = a0 := BitVec.extractLsb'_append_eq_right

@[simp] theorem opField_packWord (op : BitVec 8) (a2 a1 a0 : Word) : opField (packWord op a2 a1 a0) = op :=
  opField_append op 0 a2 a1 a0

@[simp] theorem rsvField_packWord (op : BitVec 8) (a2 a1 a0 : Word) : rsvField (packWord op a2 a1 a0) = 0 :=
  rsvField_append op 0 a2 a1 a0

@[simp] theorem a2Field_packWord (op : BitVec 8) (a2 a1 a0 : Word) : a2Field (packWord op a2 a1 a0) = a2 :=
  a2Field_append op 0 a2 a1 a0

@[simp] theorem a1Field_packWord (op : BitVec 8) (a2 a1 a0 : Word) : a1Field (packWord op a2 a1 a0) = a1 :=
  a1Field_append op 0 a2 a1 a0

@[simp] theorem a0Field_packWord (op : BitVec 8) (a2 a1 a0 : Word) : a0Field (packWord op a2 a1 a0) = a0 :=
  a0Field_append op 0 a2 a1 a0

/-- The two lowest fields of a word side by side. -/
theorem extractLsb'_append_low (w : CmdWord) (m n : Nat) :
    w.extractLsb' n m ++ w.extractLsb' 0 n = w.extractLsb' 0 (m + n) :=
  BitVec.extractLsb'_append_extractLsb'_eq_extractLsb' (Nat.zero_add n).symm

/-- A word is the pack of its fields when its `rsv` is 0. -/
theorem packWord_fields {w : CmdWord} (h : rsvField w = 0) :
    packWord (opField w) (a2Field w) (a1Field w) (a0Field w) = w := by
  rw [packWord, show (0#24) = rsvField w from h.symm, opField, rsvField, a2Field, a1Field, a0Field,
    extractLsb'_append_low, extractLsb'_append_low, extractLsb'_append_low, extractLsb'_append_low]
  exact BitVec.extractLsb'_eq_self

theorem packWord_of_fields {w : CmdWord} {op : BitVec 8} {a2 a1 a0 : Word} (hop : opField w = op)
    (hrsv : rsvField w = 0) (h2 : a2Field w = a2) (h1 : a1Field w = a1) (h0 : a0Field w = a0) :
    packWord op a2 a1 a0 = w := by
  rw [← hop, ← h2, ← h1, ← h0, packWord_fields hrsv]

/-- The selector of a word of RDST, in the operand and in the whole word (R63). -/
theorem extractLsb'_a0Field (w : CmdWord) : (a0Field w).extractLsb' 0 3 = w.extractLsb' 0 3 := by
  ext k hk
  simp [a0Field]

/-! ## Operands narrower than their field (R61, R63, R64) -/

theorem extractLsb'_low_setWidth {m n : Nat} (x : BitVec m) (h : m ≤ n) : (x.setWidth n).extractLsb' 0 m = x := by
  ext k hk
  simp [hk]
  omega

theorem extractLsb'_high_setWidth {m n : Nat} (x : BitVec m) (k : Nat) : (x.setWidth n).extractLsb' m k = 0 := by
  ext j hj
  simp

/-- A word without bits from `m` on is the zero extension of its low `m` bits. -/
theorem setWidth_extractLsb'_low {m k n : Nat} {x : BitVec n} (hn : n = m + k) (h : x.extractLsb' m k = 0) :
    (x.extractLsb' 0 m).setWidth n = x := by
  ext j hj
  by_cases hm : j < m
  · simp [hm, hj]
  · have hbit : (x.extractLsb' m k).getLsbD (j - m) = false := by rw [h]; simp
    have hjk : j - m < k := by omega
    simpa [hm, hjk, Nat.add_sub_cancel' (Nat.le_of_not_lt hm), hj] using hbit.symm

/-! ## What the decoder answers -/

theorem decodeOperands_seed (w : CmdWord) :
    decodeOperands 0x01 w = .ok (.seed (a0Field w) (a1Field w) (a2Field w)) := rfl
theorem decodeOperands_next (w : CmdWord) : decodeOperands 0x02 w = decodeNoOperand .next w := rfl
theorem decodeOperands_u01 (w : CmdWord) : decodeOperands 0x03 w = decodeNoOperand .u01 w := rfl
theorem decodeOperands_f53 (w : CmdWord) : decodeOperands 0x04 w = decodeNoOperand .f53 w := rfl
theorem decodeOperands_bnd (w : CmdWord) : decodeOperands 0x05 w = decodeBnd w := rfl
theorem decodeOperands_bits (w : CmdWord) : decodeOperands 0x06 w = decodeBits w := rfl
theorem decodeOperands_bit (w : CmdWord) : decodeOperands 0x07 w = decodeNoOperand .bit w := rfl
theorem decodeOperands_rdst (w : CmdWord) : decodeOperands 0x08 w = decodeRdst w := rfl
theorem decodeOperands_rdtb (w : CmdWord) : decodeOperands 0x09 w = decodeRdtb w := rfl

/-- The legal values of `op` (R55, R68). -/
theorem legal_opcode_cases {op : BitVec 8} (h0 : op ≠ 0x00) (h : op.toNat < 0x0A) :
    op = 0x01 ∨ op = 0x02 ∨ op = 0x03 ∨ op = 0x04 ∨ op = 0x05 ∨ op = 0x06 ∨ op = 0x07 ∨ op = 0x08 ∨ op = 0x09 := by
  revert op
  decide

theorem decode_packWord {op : BitVec 8} (h0 : op ≠ 0x00) (h : op.toNat < 0x0A) (a2 a1 a0 : Word) :
    decode (packWord op a2 a1 a0) = decodeOperands op (packWord op a2 a1 a0) := by
  have hop : ¬ (op = 0x00 ∨ 0x0A ≤ op.toNat) := by
    rintro (h' | h')
    · exact h0 h'
    · omega
  rw [decode, opField_packWord, rsvField_packWord, if_neg hop, if_pos rfl]

/-- Everything a word that the decoder accepts must be. -/
theorem decode_ok_cases {w : CmdWord} {i : Instr} (h : decode w = .ok i) :
    opField w ≠ 0x00 ∧ (opField w).toNat < 0x0A ∧ rsvField w = 0 ∧ decodeOperands (opField w) w = .ok i := by
  rw [decode] at h
  split_ifs at h with hop hrsv
  obtain ⟨h0, h9⟩ := not_or.mp hop
  exact ⟨h0, by omega, hrsv, h⟩

/-- A command without operands: what the operand decoder reads is that command, in its own word. -/
theorem decodeNoOperand_ok {i j : Instr} {op : BitVec 8} {w : CmdWord} (hwf : j.wellFormed = true)
    (hop : j.opcode = op) (henc : encode j = packWord op 0 0 0) (h : decodeNoOperand j w = .ok i) :
    i.wellFormed = true ∧ i.opcode = op ∧ encode i = packWord op (a2Field w) (a1Field w) (a0Field w) := by
  rw [decodeNoOperand] at h
  split_ifs at h with hz
  cases h
  obtain ⟨h2, h1, h0⟩ := hz
  exact ⟨hwf, hop, by rw [henc, h2, h1, h0]⟩

theorem decodeBnd_ok_cases {i : Instr} {w : CmdWord} (h : decodeBnd w = .ok i) :
    i = .bnd (a0Field w) ∧ a2Field w = 0 ∧ a1Field w = 0 := by
  rw [decodeBnd] at h
  split_ifs at h with hz
  cases h
  exact ⟨rfl, hz⟩

theorem decodeBits_ok_cases {i : Instr} {w : CmdWord} (h : decodeBits w = .ok i) :
    ∃ n : BitVec 8, i = .bits n ∧ a2Field w = 0 ∧ a1Field w = 0 ∧ a0Field w = n.setWidth 32 := by
  rw [decodeBits] at h
  split_ifs at h with hz
  cases h
  obtain ⟨h2, h1, h0⟩ := hz
  exact ⟨_, rfl, h2, h1, (setWidth_extractLsb'_low rfl h0).symm⟩

theorem decodeRdst_ok_cases {i : Instr} {w : CmdWord} (h : decodeRdst w = .ok i) :
    ∃ sel : BitVec 3, i = .rdst sel ∧ selectorOk sel = true ∧ a2Field w = 0 ∧ a1Field w = 0 ∧
      a0Field w = sel.setWidth 32 := by
  rw [decodeRdst] at h
  split_ifs at h with hz hsel
  cases h
  obtain ⟨h2, h1, h0⟩ := hz
  exact ⟨_, rfl, hsel, h2, h1, (setWidth_extractLsb'_low rfl h0).symm⟩

theorem decodeRdtb_ok_cases {i : Instr} {w : CmdWord} (h : decodeRdtb w = .ok i) :
    ∃ index : Index, i = .rdtb index ∧ a2Field w = 0 ∧ a1Field w = 0 ∧ a0Field w = index.setWidth 32 := by
  rw [decodeRdtb] at h
  split_ifs at h with hz
  cases h
  obtain ⟨h2, h1, h0⟩ := hz
  exact ⟨_, rfl, h2, h1, (setWidth_extractLsb'_low rfl h0).symm⟩

/-- The command that the operand decoder reads is well formed, has this opcode, and its word has these operands. -/
theorem decodeOperands_ok {op : BitVec 8} {w : CmdWord} {i : Instr} (h0 : op ≠ 0x00) (h9 : op.toNat < 0x0A)
    (h : decodeOperands op w = .ok i) :
    i.wellFormed = true ∧ i.opcode = op ∧ encode i = packWord op (a2Field w) (a1Field w) (a0Field w) := by
  rcases legal_opcode_cases h0 h9 with rfl | rfl | rfl | rfl | rfl | rfl | rfl | rfl | rfl
  · rw [decodeOperands_seed] at h
    cases h
    exact ⟨rfl, rfl, rfl⟩
  · rw [decodeOperands_next] at h
    exact decodeNoOperand_ok rfl rfl rfl h
  · rw [decodeOperands_u01] at h
    exact decodeNoOperand_ok rfl rfl rfl h
  · rw [decodeOperands_f53] at h
    exact decodeNoOperand_ok rfl rfl rfl h
  · rw [decodeOperands_bnd] at h
    obtain ⟨rfl, e2, e1⟩ := decodeBnd_ok_cases h
    exact ⟨rfl, rfl, by rw [encode, e2, e1]⟩
  · rw [decodeOperands_bits] at h
    obtain ⟨n, rfl, e2, e1, e0⟩ := decodeBits_ok_cases h
    exact ⟨rfl, rfl, by rw [encode, e2, e1, e0]⟩
  · rw [decodeOperands_bit] at h
    exact decodeNoOperand_ok rfl rfl rfl h
  · rw [decodeOperands_rdst] at h
    obtain ⟨sel, rfl, hsel, e2, e1, e0⟩ := decodeRdst_ok_cases h
    exact ⟨hsel, rfl, by rw [encode, e2, e1, e0]⟩
  · rw [decodeOperands_rdtb] at h
    obtain ⟨index, rfl, e2, e1, e0⟩ := decodeRdtb_ok_cases h
    exact ⟨rfl, rfl, by rw [encode, e2, e1, e0]⟩

/-! ## The rows of the opcode table, field by field -/

theorem opField_and (w m : CmdWord) : opField (w &&& m) = opField w &&& opField m := BitVec.extractLsb'_and
theorem rsvField_and (w m : CmdWord) : rsvField (w &&& m) = rsvField w &&& rsvField m := BitVec.extractLsb'_and
theorem a2Field_and (w m : CmdWord) : a2Field (w &&& m) = a2Field w &&& a2Field m := BitVec.extractLsb'_and
theorem a1Field_and (w m : CmdWord) : a1Field (w &&& m) = a1Field w &&& a1Field m := BitVec.extractLsb'_and
theorem a0Field_and (w m : CmdWord) : a0Field (w &&& m) = a0Field w &&& a0Field m := BitVec.extractLsb'_and

/-- A word that a mask leaves equal to a packed word: the mask keeps all of `op` and `rsv`, and `b2`, `b1`, `b0` of the
operands. -/
theorem fields_of_and_mask {w : CmdWord} {op : BitVec 8} {a2 a1 a0 b2 b1 b0 : Word}
    (h : w &&& (BitVec.allOnes 8 ++ (BitVec.allOnes 24 ++ (b2 ++ (b1 ++ b0)))) = packWord op a2 a1 a0) :
    opField w = op ∧ rsvField w = 0 ∧ a2Field w &&& b2 = a2 ∧ a1Field w &&& b1 = a1 ∧ a0Field w &&& b0 = a0 := by
  have hop := congrArg opField h
  have hrsv := congrArg rsvField h
  have h2 := congrArg a2Field h
  have h1 := congrArg a1Field h
  have h0 := congrArg a0Field h
  rw [opField_and, opField_append, BitVec.and_allOnes, opField_packWord] at hop
  rw [rsvField_and, rsvField_append, BitVec.and_allOnes, rsvField_packWord] at hrsv
  rw [a2Field_and, a2Field_append, a2Field_packWord] at h2
  rw [a1Field_and, a1Field_append, a1Field_packWord] at h1
  rw [a0Field_and, a0Field_append, a0Field_packWord] at h0
  exact ⟨hop, hrsv, h2, h1, h0⟩

/-- A word that a mask of all bits from `m` on clears is the zero extension of its low `m` bits. -/
theorem setWidth_of_and_mask {m k n : Nat} {x mask : BitVec n} (hn : n = m + k)
    (hmask : mask.extractLsb' m k = BitVec.allOnes k) (h : x &&& mask = 0) : (x.extractLsb' 0 m).setWidth n = x := by
  refine setWidth_extractLsb'_low hn ?_
  calc x.extractLsb' m k
    _ = (x &&& mask).extractLsb' m k := by rw [BitVec.extractLsb'_and, hmask, BitVec.and_allOnes]
    _ = 0 := by rw [h]; simp

theorem and_ones_eq_zero {x : Word} (h : x &&& 0xFFFFFFFF = 0) : x = 0 :=
  (BitVec.and_allOnes (x := x)).symm.trans h

/-- A row that fixes every bit accepts its match alone. -/
theorem eq_of_and_ones {w m : CmdWord} (h : w &&& 0xFFFFFFFFFFFFFFFFFFFFFFFFFFFFFFFF = m) : m = w :=
  h.symm.trans BitVec.and_allOnes

/-- A row that fixes `op`, `rsv`, `a2` and `a1`, and of `a0` all bits from `m` on. -/
theorem packWord_of_narrow_row {m k : Nat} {w : CmdWord} {op : BitVec 8} {b0 : Word} (hm : 32 = m + k)
    (hmask : b0.extractLsb' m k = BitVec.allOnes k)
    (h : w &&& (BitVec.allOnes 8 ++ (BitVec.allOnes 24 ++ (0xFFFFFFFF#32 ++ (0xFFFFFFFF#32 ++ b0)))) =
      packWord op 0 0 0) :
    packWord op 0 0 (((a0Field w).extractLsb' 0 m).setWidth 32) = w := by
  obtain ⟨hop, hrsv, h2, h1, h0⟩ := fields_of_and_mask h
  exact packWord_of_fields hop hrsv (and_ones_eq_zero h2) (and_ones_eq_zero h1)
    (setWidth_of_and_mask hm hmask h0).symm

/-- A word that a row accepts is the word of a command of that row; RDST's row, with the test of the selector. -/
theorem encode_of_row {w : CmdWord} {i : Instr} (h : w &&& i.rowMask = i.rowMatch)
    (hsel : i.opcode = 0x08 → selectorOk (w.extractLsb' 0 3) = true) :
    ∃ j : Instr, j.wellFormed = true ∧ j.opcode = i.opcode ∧ encode j = w := by
  cases i with
  | seed a0 a1 a2 =>
    obtain ⟨hop, hrsv, -, -, -⟩ := fields_of_and_mask (op := 0x01) (b2 := 0) (b1 := 0) (b0 := 0)
      (a2 := 0) (a1 := 0) (a0 := 0) h
    exact ⟨.seed (a0Field w) (a1Field w) (a2Field w), rfl, rfl, packWord_of_fields hop hrsv rfl rfl rfl⟩
  | next => exact ⟨.next, rfl, rfl, eq_of_and_ones h⟩
  | u01 => exact ⟨.u01, rfl, rfl, eq_of_and_ones h⟩
  | f53 => exact ⟨.f53, rfl, rfl, eq_of_and_ones h⟩
  | bnd limit =>
    obtain ⟨hop, hrsv, h2, h1, -⟩ := fields_of_and_mask (op := 0x05) (b2 := 0xFFFFFFFF) (b1 := 0xFFFFFFFF)
      (b0 := 0) (a2 := 0) (a1 := 0) (a0 := 0) h
    exact ⟨.bnd (a0Field w), rfl, rfl, packWord_of_fields hop hrsv (and_ones_eq_zero h2) (and_ones_eq_zero h1) rfl⟩
  | bits n =>
    exact ⟨.bits ((a0Field w).extractLsb' 0 8), rfl, rfl,
      packWord_of_narrow_row (k := 24) (op := 0x06) (b0 := 0xFFFFFF00) rfl rfl h⟩
  | bit => exact ⟨.bit, rfl, rfl, eq_of_and_ones h⟩
  | rdst sel =>
    refine ⟨.rdst ((a0Field w).extractLsb' 0 3), ?_, rfl,
      packWord_of_narrow_row (k := 29) (op := 0x08) (b0 := 0xFFFFFFF8) rfl rfl h⟩
    rw [extractLsb'_a0Field]
    exact hsel rfl
  | rdtb index =>
    exact ⟨.rdtb ((a0Field w).extractLsb' 0 14), rfl, rfl,
      packWord_of_narrow_row (k := 18) (op := 0x09) (b0 := 0xFFFFC000) rfl rfl h⟩

/-! ## The statements -/

/-- Decoding a command's word, opcode by opcode: the operand test of its row passes, and the field is read back. -/
theorem decode_encode {i : Instr} (h : i.wellFormed = true) : decode (encode i) = .ok i := by
  cases i with
  | seed a0 a1 a2 =>
    rw [encode, decode_packWord (by decide) (by decide), decodeOperands_seed, a0Field_packWord, a1Field_packWord,
      a2Field_packWord]
  | next => rfl
  | u01 => rfl
  | f53 => rfl
  | bnd limit =>
    rw [encode, decode_packWord (by decide) (by decide), decodeOperands_bnd]
    simp [decodeBnd]
  | bits n =>
    have hlow := extractLsb'_low_setWidth n (n := 32) (by decide)
    have hhigh := extractLsb'_high_setWidth (n := 32) n 24
    rw [encode, decode_packWord (by decide) (by decide), decodeOperands_bits]
    simp [decodeBits, hlow, hhigh]
  | bit => rfl
  | rdst sel => simpa [decode_encode_rdst, Instr.wellFormed] using h
  | rdtb index =>
    have hlow := extractLsb'_low_setWidth index (n := 32) (by decide)
    have hhigh := extractLsb'_high_setWidth (n := 32) index 18
    rw [encode, decode_packWord (by decide) (by decide), decodeOperands_rdtb]
    simp [decodeRdtb, hlow, hhigh]

/-- Settles O1: by cases on the command; each operand, zero-extended into its field, is read back by the decoder. -/
theorem decodeOfEncodeIsIdentity : Obligations.DecodeOfEncodeIsIdentity :=
  fun _ => decode_encode

/-- Settles O2: the decoder's operands are the word's own fields, and a word is the pack of its fields. -/
theorem encodeOfDecodeIsIdentity : Obligations.EncodeOfDecodeIsIdentity := by
  intro w i h
  obtain ⟨h0, h9, hrsv, hoperands⟩ := decode_ok_cases h
  obtain ⟨hwf, -, henc⟩ := decodeOperands_ok h0 h9 hoperands
  exact ⟨hwf, henc.trans (packWord_fields hrsv)⟩

theorem encode_and_rowMask (i : Instr) : encode i &&& i.rowMask = i.rowMatch := by
  cases i with
  | seed a0 a1 a2 => exact Laws.EncodeMatchesRow.seed a0 a1 a2
  | next => exact Laws.EncodeMatchesRow.next
  | u01 => exact Laws.EncodeMatchesRow.u01
  | f53 => exact Laws.EncodeMatchesRow.f53
  | bnd limit => exact Laws.EncodeMatchesRow.bnd limit
  | bits n => exact Laws.EncodeMatchesRow.bits n
  | bit => exact Laws.EncodeMatchesRow.bit
  | rdst sel => exact Laws.EncodeMatchesRow.rdst sel
  | rdtb index => exact Laws.EncodeMatchesRow.rdtb index

/-- RDST's word holds its selector in its low bits (R63). -/
theorem extractLsb'_encode_rdst (sel : BitVec 3) : (encode (.rdst sel)).extractLsb' 0 3 = sel := by
  rw [← extractLsb'_a0Field, encode, a0Field_packWord, extractLsb'_low_setWidth sel (by decide)]

theorem opcode_eq_rdst {i : Instr} (h : i.opcode = 0x08) : ∃ sel, i = .rdst sel := by
  cases i with
  | rdst sel => exact ⟨sel, rfl⟩
  | _ => cases h

/-- A word that decodes to a command of RDST's opcode passes the test of the selector. -/
theorem selectorOk_of_decode {w : CmdWord} {i : Instr} (h : decode w = .ok i) (hop : i.opcode = 0x08) :
    selectorOk (w.extractLsb' 0 3) = true := by
  obtain ⟨hwf, rfl⟩ := encodeOfDecodeIsIdentity w i h
  obtain ⟨sel, rfl⟩ := opcode_eq_rdst hop
  rw [extractLsb'_encode_rdst]
  exact hwf

/-- Settles O3: what decodes is the word of its command, which lies in that command's row; and what lies in a row is the
word of a command of that row, which decodes. -/
theorem decoderAcceptsExactlyTheTableRows : Obligations.DecoderAcceptsExactlyTheTableRows := by
  refine ⟨fun w i h => ⟨?_, selectorOk_of_decode h⟩, fun w i hrow hsel => ?_⟩
  · obtain ⟨-, rfl⟩ := encodeOfDecodeIsIdentity w i h
    exact encode_and_rowMask i
  · obtain ⟨j, hwf, hop, rfl⟩ := encode_of_row hrow hsel
    exact ⟨j, decode_encode hwf, hop⟩

/-- Settles O4: an accepted word has a legal `op`, `rsv` 0, and passes RDST's test of the selector. -/
theorem reservedWordsSpellNoCommand : Obligations.ReservedWordsSpellNoCommand := by
  intro w hreserved i h
  obtain ⟨h0, h9, hrsv, hoperands⟩ := decode_ok_cases h
  obtain ⟨-, hop, -⟩ := decodeOperands_ok h0 h9 hoperands
  rcases hreserved with hzero | hhigh | hrsv' | ⟨hrdst, hsel⟩
  · exact h0 hzero
  · omega
  · exact hrsv' hrsv
  · have hok := selectorOk_of_decode h (hop.trans hrdst)
    rw [← extractLsb'_a0Field, selectorOk, decide_eq_true_eq] at hok
    omega

/-- Settles O5: the decoder, evaluated on each of the ten words. -/
theorem specWordsDecodeAsListed : Obligations.SpecWordsDecodeAsListed :=
  ⟨rfl, rfl, rfl, rfl, rfl, rfl, rfl, rfl, rfl, rfl⟩

end Sys2Proof.Machine

/-! PROOFS. What a command that answers can have done: its draws, then a response. From that, the invariant of the
engine's states (10_state.md sections 3 to 5 and 9, 42_seeder.md section 2), kept by every step. -/

namespace Sys2Proof.Machine

/-! ## The commands, outcome by outcome -/

theorem exec_seed_eq (a0 a1 a2 : Word) (s : State) : exec (.seed a0 a1 a2) s = execSeed a0 a1 a2 s := rfl
theorem exec_u01_eq (s : State) : exec .u01 s = transform u01Of s := rfl
theorem exec_f53_eq (s : State) : exec .f53 s = execF53 s := rfl
theorem exec_bnd_eq (limit : Word) (s : State) : exec (.bnd limit) s = execBnd limit s := rfl
theorem exec_bit_eq (s : State) : exec .bit s = transform bitOf s := rfl

/-- The state right after the acceptance of a SEED (R102). -/
theorem execSeed_eq (a0 a1 a2 : Word) (s : State) :
    execSeed a0 a1 a2 s =
      .next (((((s.setGen ⟨a0, a1, a2⟩).setSeeded false).setBusy true).setSeq .warm 0).setRsp none) := rfl

theorem execF53_ok {s u : State} {xs : List Word} (h : draws f53Steps s = .ok (xs, u)) :
    execF53 s = .next (u.setRsp (some (binary64 (f53Of xs) 53))) := by
  simp [execF53, h, respond]

theorem execF53_fault {s : State} {e : Fault} (h : draws f53Steps s = .error e) : execF53 s = .fault e := by
  simp [execF53, h, raise]

/-- Everything an F53 that answers can have done. -/
theorem execF53_cases {s t : State} (h : execF53 s = .next t) :
    ∃ xs u, draws f53Steps s = .ok (xs, u) ∧ t = u.setRsp (some (binary64 (f53Of xs) 53)) := by
  cases hd : draws f53Steps s with
  | error e => rw [execF53_fault hd] at h; cases h
  | ok p =>
    obtain ⟨xs, u⟩ := p
    rw [execF53_ok hd] at h
    cases h
    exact ⟨xs, u, rfl, rfl⟩

theorem execBnd_unseeded {s : State} (limit : Word) (hs : s.seeded = false) :
    execBnd limit s = .fault .unseeded := by
  simp [execBnd, hs, raise]

theorem execBnd_zero {s : State} (hs : s.seeded = true) : execBnd 0 s = .fault .limitZero := by
  simp [execBnd, hs, raise]

/-- With a limit on a seeded engine BND is a transform of one draw. -/
theorem execBnd_pos {s : State} {limit : Word} (hs : s.seeded = true) (h : limit ≠ 0) :
    execBnd limit s = transform (bndOf limit) s := by
  rw [execBnd, if_neg (by simp [hs]), if_neg h]

/-- A BND that answers had a limit, and was a transform of one draw. -/
theorem execBnd_cases {s t : State} {limit : Word} (h : execBnd limit s = .next t) :
    limit ≠ 0 ∧ transform (bndOf limit) s = .next t := by
  cases hs : s.seeded with
  | false => rw [execBnd_unseeded limit hs] at h; cases h
  | true =>
    by_cases hl : limit = 0
    · rw [hl, execBnd_zero hs] at h; cases h
    · rw [execBnd_pos hs hl] at h
      exact ⟨hl, h⟩

/-- A BITS that answers had a legal operand, and was a transform of one draw. -/
theorem execBits_cases {s t : State} {n : BitVec 8} (h : execBits n s = .next t) :
    1 ≤ n.toNat ∧ n.toNat ≤ 31 ∧ transform (bitsOf n) s = .next t := by
  cases hs : s.seeded with
  | false => rw [execBits_unseeded n hs] at h; cases h
  | true =>
    by_cases hn : n = 0 ∨ 32 ≤ n.toNat
    · rw [execBits_out_of_range hs hn] at h; cases h
    · obtain ⟨h0, h31⟩ := not_or.mp hn
      have hpos : n.toNat ≠ 0 := fun h => h0 (BitVec.eq_of_toNat_eq h)
      rw [execBits_in_range hs (by omega) (by omega)] at h
      exact ⟨by omega, by omega, h⟩

/-! ## A command is its draws and a response -/

theorem draws_one {s s' : State} {x : Word} (h : draw s = .ok (x, s')) : draws 1 s = .ok ([x], s') :=
  draws_succ h (draws_zero s')

theorem draws_of_transform {f : Word → Rsp} {s t : State} (h : transform f s = .next t) :
    ∃ xs u r, draws 1 s = .ok (xs, u) ∧ t = u.setRsp (some r) := by
  obtain ⟨x, hs, hread, rfl⟩ := transform_cases h
  exact ⟨[x], afterDraw s x, f x, draws_one (draw_written hs hread), rfl⟩

/-- Everything a command other than SEED that answers can have done: its draws, then the response. -/
theorem exec_cases {i : Instr} {s t : State} (hop : i.opcode ≠ 0x01) (h : exec i s = .next t) :
    ∃ xs u r, draws (drawCount i) s = .ok (xs, u) ∧ t = u.setRsp (some r) := by
  cases i with
  | seed a0 a1 a2 => exact absurd rfl hop
  | next => exact draws_of_transform h
  | u01 => exact draws_of_transform h
  | f53 =>
    obtain ⟨xs, u, hd, rfl⟩ := execF53_cases h
    exact ⟨xs, u, _, hd, rfl⟩
  | bnd limit => exact draws_of_transform (execBnd_cases h).2
  | bits n => exact draws_of_transform (execBits_cases h).2.2
  | bit => exact draws_of_transform h
  | rdst sel =>
    obtain ⟨x, -, rfl⟩ := exec_rdst_cases h
    exact ⟨[], s, _, rfl, rfl⟩
  | rdtb index =>
    obtain ⟨v, -, -, rfl⟩ := execRdtb_cases h
    exact ⟨[], s, _, rfl, rfl⟩

theorem opcode_eq_seed {i : Instr} (h : i.opcode = 0x01) : ∃ a0 a1 a2, i = .seed a0 a1 a2 := by
  cases i with
  | seed a0 a1 a2 => exact ⟨a0, a1, a2, rfl⟩
  | _ => cases h

/-! ## The frame of several draws -/

/-- What draws leave unchanged: everything but the units, the history and the table. -/
theorem draws_frame {n : Nat} {s t : State} {xs : List Word} (h : draws n s = .ok (xs, t)) :
    t.phase = s.phase ∧ t.cnt = s.cnt ∧ t.seeded = s.seeded ∧ t.busy = s.busy ∧ t.host = s.host := by
  induction n generalizing s xs with
  | zero => cases h; exact ⟨rfl, rfl, rfl, rfl, rfl⟩
  | succ n ih =>
    obtain ⟨x, s1, ys, hd, hds, rfl⟩ := draws_succ_cases h
    obtain ⟨-, -, rfl⟩ := draw_cases hd
    simpa using ih hds

/-- A command other than SEED keeps the sequencing state, the flags and the host. -/
theorem exec_frame {i : Instr} {s t : State} (hop : i.opcode ≠ 0x01) (h : exec i s = .next t) :
    t.phase = s.phase ∧ t.cnt = s.cnt ∧ t.seeded = s.seeded ∧ t.busy = s.busy ∧ t.host = s.host := by
  obtain ⟨xs, u, r, hd, rfl⟩ := exec_cases hop h
  simpa using draws_frame hd

/-! ## The port in a step -/

/-- Waiting moves nothing but the host. -/
theorem waitHost_eq (s : State) : ∃ h, waitHost s = s.setHost h := by
  rw [waitHost]
  split
  · exact ⟨_, rfl⟩
  · exact ⟨s.host, rfl⟩

/-! ## The invariant, operation by operation -/

theorem inv_resetWith (rw : ResetWords) : (State.resetWith rw).Inv where
  canonical := rfl
  sequencing := rfl
  busyPhase := by simp [State.resetWith]
  filling := nofun
  seededIdle := nofun
  seededFull := nofun
  oneAtATime := nofun

/-- The invariant does not speak of the host. -/
theorem State.Inv.setHost {s : State} (h : s.Inv) (k : List HostAct) : (s.setHost k).Inv :=
  ⟨h.canonical, h.sequencing, h.busyPhase, h.filling, h.seededIdle, h.seededFull, h.oneAtATime⟩

theorem State.Inv.setRsp_none {s : State} (h : s.Inv) : (s.setRsp none).Inv :=
  ⟨h.canonical, h.sequencing, h.busyPhase, h.filling, h.seededIdle, h.seededFull, nofun⟩

theorem State.Inv.unseeded {s : State} (h : s.Inv) (hp : s.phase ≠ .idle) : s.seeded = false := by
  cases hs : s.seeded with
  | false => rfl
  | true => exact absurd (h.seededIdle hs) hp

theorem cnt_succ_toNat {c : BitVec 14} (h : c ≠ 16383) : (c + 1).toNat = c.toNat + 1 := by
  bv_omega

/-- An engine at work, at any count of its phase, over a canonical table: the invariant is the range of the count and
the slots that the fill has written. -/
theorem inv_working {s : State} (hw : s.table.wf = true) (hq : cntOk s.phase s.cnt = true) (hb : s.busy = true)
    (hp : s.phase ≠ .idle) (hu : s.seeded = false) (hr : s.rsp = none)
    (hf : s.phase = .fill → ∀ i : Index, i.toNat < s.cnt.toNat → (s.table.read i).isSome = true) : s.Inv where
  canonical := hw
  sequencing := hq
  busyPhase := by simp [hb, hp]
  filling := hf
  seededIdle := by simp [hu]
  seededFull := by simp [hu]
  oneAtATime := by simp [hr]

theorem inv_warmStep {s : State} (h : s.Inv) (hp : s.phase = .warm) (hr : s.rsp = none) : (warmStep s).Inv := by
  have hidle : s.phase ≠ .idle := by rw [hp]; nofun
  have hc : s.cnt.toNat < 128 := by simpa [cntOk, hp] using h.sequencing
  rw [warmStep_eq]
  split_ifs with h127
  · exact inv_working h.canonical rfl (h.busyPhase.mpr hidle) nofun (h.unseeded hidle) hr nofun
  · refine inv_working h.canonical ?_ (h.busyPhase.mpr hidle) nofun (h.unseeded hidle) hr nofun
    have : (s.cnt + 1).toNat < 128 := by bv_omega
    simpa [cntOk] using this

theorem inv_histStep {s : State} (h : s.Inv) (hp : s.phase = .hist) (hr : s.rsp = none) : (histStep s).Inv := by
  have hidle : s.phase ≠ .idle := by rw [hp]; nofun
  have hc : s.cnt.toNat < 3 := by simpa [cntOk, hp] using h.sequencing
  rw [histStep_eq]
  split_ifs with h2
  · exact inv_working h.canonical rfl (h.busyPhase.mpr hidle) nofun (h.unseeded hidle) hr
      fun _ _ hlt => absurd hlt (Nat.not_lt_zero _)
  · refine inv_working h.canonical ?_ (h.busyPhase.mpr hidle) nofun (h.unseeded hidle) hr nofun
    have : (s.cnt + 1).toNat < 3 := by bv_omega
    simpa [cntOk] using this

/-- The fill writes slot `cnt`: after it every slot up to `cnt` has a value. -/
theorem isSome_write_cnt {s : State} (h : s.Inv) (hp : s.phase = .fill) (v : Word) {i : Index}
    (hi : i.toNat ≤ s.cnt.toNat) : ((s.table.write s.cnt v).read i).isSome = true := by
  by_cases he : i = s.cnt
  · rw [he, Memory.read_write_same]; rfl
  · have hne : i.toNat ≠ s.cnt.toNat := fun hn => he (BitVec.eq_of_toNat_eq hn)
    exact Memory.isSome_write _ _ _ _ (h.filling hp i (by omega))

theorem inv_fillStep {s : State} (h : s.Inv) (hp : s.phase = .fill) (hr : s.rsp = none) : (fillStep s).Inv := by
  have hidle : s.phase ≠ .idle := by rw [hp]; nofun
  rw [fillStep_eq]
  split_ifs with hlast
  · refine ⟨Memory.wf_write _ _ _ h.canonical, rfl, by simp, nofun, fun _ => rfl, fun _ i => ?_, fun _ => rfl⟩
    refine isSome_write_cnt h hp _ ?_
    rw [hlast]
    exact Nat.le_of_lt_succ i.isLt
  · refine inv_working (Memory.wf_write _ _ _ h.canonical) rfl (h.busyPhase.mpr hidle) nofun (h.unseeded hidle) hr
      fun _ i hi => isSome_write_cnt h hp _ ?_
    rw [State.setSeq_cnt, cnt_succ_toNat hlast] at hi
    omega

theorem inv_microStep {s : State} (h : s.Inv) : (microStep s).Inv := by
  cases hp : s.phase with
  | idle => simpa [microStep, hp] using h.setRsp_none
  | warm => simpa [microStep, hp] using inv_warmStep h.setRsp_none hp rfl
  | hist => simpa [microStep, hp] using inv_histStep h.setRsp_none hp rfl
  | fill => simpa [microStep, hp] using inv_fillStep h.setRsp_none hp rfl

theorem inv_execSeed {s : State} (h : s.Inv) (a0 a1 a2 : Word) :
    (((((s.setGen ⟨a0, a1, a2⟩).setSeeded false).setBusy true).setSeq .warm 0).setRsp none).Inv :=
  inv_working h.canonical rfl rfl nofun rfl rfl nofun

/-- A command run by an idle engine keeps the invariant: draws keep the canonical form and unwrite no slot. -/
theorem inv_exec {i : Instr} {s t : State} (h : s.Inv) (hp : s.phase = .idle) (he : exec i s = .next t) : t.Inv := by
  by_cases hop : i.opcode = 0x01
  · obtain ⟨a0, a1, a2, rfl⟩ := opcode_eq_seed hop
    rw [exec_seed_eq, execSeed_eq] at he
    cases he
    exact inv_execSeed h a0 a1 a2
  · obtain ⟨xs, u, r, hd, rfl⟩ := exec_cases hop he
    obtain ⟨hphase, hcnt, hseeded, hbusy, -⟩ := draws_frame hd
    have hidle : u.phase = .idle := hphase.trans hp
    have hwf := draws_wf hd h.canonical
    refine ⟨hwf, ?_, ?_, ?_, fun _ => hidle, fun hs i => ?_, fun _ => hidle⟩
    · rw [State.setRsp_phase, State.setRsp_cnt, hphase, hcnt]
      exact h.sequencing
    · rw [State.setRsp_busy, State.setRsp_phase, hbusy, hphase]
      exact h.busyPhase
    · intro hf
      rw [State.setRsp_phase, hidle] at hf
      cases hf
    · have hfull : s.full := h.seededFull (hseeded ▸ hs)
      exact draws_isSome hd i (hfull i)

/-! ## The statements -/

/-- Settles O53: a step is a reset, a micro-step, or a command of an idle engine, and each keeps the invariant. -/
theorem everyStepKeepsTheInvariant : Obligations.EveryStepKeepsTheInvariant := by
  intro s t hs hstep
  rcases step_cases hstep with ⟨-, rfl⟩ | ⟨-, -, rfl⟩ | ⟨-, hp, i, -, he⟩
  · exact (inv_resetWith _).setHost _
  · obtain ⟨k, hk⟩ := waitHost_eq s
    rw [hk]
    exact inv_microStep (hs.setHost k)
  · have hpop : (popHost s).Inv := hs.setHost _
    exact inv_exec hpop hp he

/-- Settles O52: the reset state's fields meet each clause. -/
theorem resetHasTheInvariant : Obligations.ResetHasTheInvariant :=
  ⟨inv_resetWith, inv_resetWith Config.resetWords⟩

end Sys2Proof.Machine

/-! PROOFS. The command port and the step (30_encoding.md section 1, 42_seeder.md section 2): which of its moves a step
makes, when it leaves a response, and the rows of the seeder's transition table. -/

namespace Sys2Proof.Machine

/-! ## Which move a step makes -/

theorem step_reset {s : State} (h : rstIn s = true) :
    step s = .next (applyReset Config.resetWords (popHost s)) := by
  rw [step, if_pos h]

/-- At work, or with no command accepted, the machine moves by itself. -/
theorem step_micro {s : State} (hr : rstIn s = false) (h : s.phase ≠ .idle ∨ fetch s = none) :
    step s = .next (microStep (waitHost s)) := by
  rw [step, if_neg (by simp [hr])]
  split_ifs with hp
  · have hf : fetch s = none := h.resolve_left (not_not_intro hp)
    simp [idleStep, hf]
  · rfl

theorem step_exec {s : State} {i : Instr} (hr : rstIn s = false) (hp : s.phase = .idle)
    (hf : fetch s = some (.ok i)) : step s = exec i (popHost s) := by
  simp [step, hr, hp, idleStep, hf]

theorem step_refused {s : State} {e : DecodeError} (hr : rstIn s = false) (hp : s.phase = .idle)
    (hf : fetch s = some (.error e)) : step s = .refused (.noCommand e) := by
  simp [step, hr, hp, idleStep, hf]

/-! ## The port as the host drives it (R51, R52) -/

theorem rstIn_command {s : State} {w : CmdWord} {rest : List HostAct} (h : s.host = .command w :: rest) :
    rstIn s = false := by
  simp [rstIn, h]

theorem fetch_command {s : State} {w : CmdWord} {rest : List HostAct} (hb : s.busy = false)
    (h : s.host = .command w :: rest) : fetch s = some (decode w) := by
  simp [fetch, accepted, cmdReady, cmdIn, hb, h]

theorem fetch_busy {s : State} (hb : s.busy = true) : fetch s = none := by
  simp [fetch, accepted, cmdReady, hb]

theorem fetch_no_command {s : State} (h : cmdIn s = none) : fetch s = none := by
  simp [fetch, accepted, h]

theorem waitHost_command {s : State} {w : CmdWord} {rest : List HostAct} (h : s.host = .command w :: rest) :
    waitHost s = s := by
  simp [waitHost, h]

theorem popHost_eq {s : State} {a : HostAct} {rest : List HostAct} (h : s.host = a :: rest) :
    popHost s = s.setHost rest := by
  rw [popHost, h, List.tail_cons]

@[simp] theorem State.setHost_setHost (s : State) (h k : List HostAct) : (s.setHost h).setHost k = s.setHost k := rfl

@[simp] theorem State.setHost_self (s : State) : s.setHost s.host = s := rfl

/-! ## The micro-step, phase by phase (R103 to R106) -/

theorem microStep_idle {s : State} (h : s.phase = .idle) : microStep s = s.setRsp none := by
  simp [microStep, h]

theorem microStep_warm {s : State} (h : s.phase = .warm) : microStep s = warmStep (s.setRsp none) := by
  simp [microStep, h]

theorem microStep_hist {s : State} (h : s.phase = .hist) : microStep s = histStep (s.setRsp none) := by
  simp [microStep, h]

theorem microStep_fill {s : State} (h : s.phase = .fill) : microStep s = fillStep (s.setRsp none) := by
  simp [microStep, h]

theorem microStep_warm_more {s : State} (hp : s.phase = .warm) (hc : s.cnt ≠ 127) :
    microStep s = ((s.setRsp none).setGen s.gen.step).setSeq .warm (s.cnt + 1) := by
  rw [microStep_warm hp, warmStep_eq]
  exact if_neg hc

theorem microStep_warm_last {s : State} (hp : s.phase = .warm) (hc : s.cnt = 127) :
    microStep s = ((s.setRsp none).setGen s.gen.step).setSeq .hist 0 := by
  rw [microStep_warm hp, warmStep_eq]
  exact if_pos hc

theorem microStep_hist_more {s : State} (hp : s.phase = .hist) (hc : s.cnt ≠ 2) :
    microStep s = (((s.setRsp none).setGen s.gen.step).setHist
      (seedHist s.hist s.cnt s.gen.step.combine)).setSeq .hist (s.cnt + 1) := by
  rw [microStep_hist hp, histStep_eq]
  exact if_neg hc

theorem microStep_hist_last {s : State} (hp : s.phase = .hist) (hc : s.cnt = 2) :
    microStep s = (((s.setRsp none).setGen s.gen.step).setHist
      (seedHist s.hist s.cnt s.gen.step.combine)).setSeq .fill 0 := by
  rw [microStep_hist hp, histStep_eq]
  exact if_pos hc

theorem microStep_fill_more {s : State} (hp : s.phase = .fill) (hc : s.cnt ≠ 16383) :
    microStep s = (((s.setRsp none).setGen s.gen.step).setTable
      (s.table.write s.cnt s.gen.step.combine)).setSeq .fill (s.cnt + 1) := by
  rw [microStep_fill hp, fillStep_eq]
  exact if_neg hc

theorem microStep_fill_last {s : State} (hp : s.phase = .fill) (hc : s.cnt = 16383) :
    microStep s = ((((((s.setRsp none).setGen s.gen.step).setTable
      (s.table.write s.cnt s.gen.step.combine)).setSeq .idle 0).setSeeded true).setBusy false).setRsp (some 0) := by
  rw [microStep_fill hp, fillStep_eq]
  exact if_pos hc

/-- The last fill micro-step alone gives a response (R105). -/
theorem microStep_rsp_isSome (s : State) :
    (microStep s).rsp.isSome = true ↔ s.phase = .fill ∧ s.cnt = 16383 := by
  cases hp : s.phase with
  | idle => simp [microStep_idle hp]
  | warm => rw [microStep_warm hp, warmStep_eq]; split_ifs <;> simp
  | hist => rw [microStep_hist hp, histStep_eq]; split_ifs <;> simp
  | fill =>
    rw [microStep_fill hp, fillStep_eq]
    split_ifs with hlast <;> simpa using hlast

/-- Every command but SEED gives its response when it answers. -/
theorem exec_rsp_isSome {i : Instr} {s t : State} (h : exec i s = .next t) :
    t.rsp.isSome = true ↔ i.opcode ≠ 0x01 := by
  by_cases hop : i.opcode = 0x01
  · obtain ⟨a0, a1, a2, rfl⟩ := opcode_eq_seed hop
    rw [exec_seed_eq, execSeed_eq] at h
    cases h
    simp [hop]
  · obtain ⟨xs, u, r, -, rfl⟩ := exec_cases hop h
    exact iff_of_true rfl hop

/-! ## The statements on the port and the step -/

/-- Settles O10: by the three moves of a step; a reset leaves no response, a micro-step one at the last fill step, a
command one unless it is SEED. -/
theorem responseExactlyAtCompletion : Obligations.ResponseExactlyAtCompletion := by
  intro s t h
  rcases step_cases h with ⟨hr, rfl⟩ | ⟨hr, hmove, rfl⟩ | ⟨hr, hp, i, hf, he⟩
  · simp [hr, applyReset, State.resetWith]
  · obtain ⟨k, hk⟩ := waitHost_eq s
    rw [hk, microStep_rsp_isSome, State.setHost_phase, State.setHost_cnt]
    refine ⟨fun hfill => ⟨hr, .inl hfill⟩, fun ⟨_, hdone⟩ => hdone.resolve_right ?_⟩
    rintro ⟨hp, i, hf, -⟩
    rcases hmove with hp' | hf'
    · exact hp' hp
    · rw [hf'] at hf; cases hf
  · rw [exec_rsp_isSome he]
    refine ⟨fun hop => ⟨hr, .inr ⟨hp, i, hf, hop⟩⟩, fun ⟨_, hdone⟩ => ?_⟩
    rcases hdone with ⟨hfill, -⟩ | ⟨-, j, hfj, hop⟩
    · rw [hp] at hfill; cases hfill
    · rw [hf] at hfj
      cases hfj
      exact hop

/-- Settles O8: a busy engine accepts no word, and a micro-step neither reads nor moves the host. -/
theorem busyEngineAcceptsNothing : Obligations.BusyEngineAcceptsNothing := by
  intro s w rest hb hh
  refine ⟨microStep (s.setHost []), step_micro rfl (.inr (fetch_busy hb)), ?_⟩
  rw [step_micro (rstIn_command hh) (.inr (fetch_busy hb)), waitHost_command hh, microStep_setHost,
    State.setHost_setHost, ← hh, ← microStep_setHost, State.setHost_self]

/-- Settles O6. -/
theorem stepRunsTheAcceptedCommand : Obligations.StepRunsTheAcceptedCommand := by
  rintro s w rest i ⟨hp, hb⟩ hh hd
  rw [step_exec (rstIn_command hh) hp (by rw [fetch_command hb hh, hd]), popHost_eq hh]

/-- Settles O7. -/
theorem stepRefusesAWordThatSpellsNoCommand : Obligations.StepRefusesAWordThatSpellsNoCommand := by
  rintro s w rest e ⟨hp, hb⟩ hh hd
  exact step_refused (rstIn_command hh) hp (by rw [fetch_command hb hh, hd])

/-- Settles O9: with no word on the port an idle engine makes a micro-step, which in phase IDLE moves nothing. -/
theorem idleEngineHoldsItsState : Obligations.IdleEngineHoldsItsState := by
  refine fun s hp => ⟨fun hh => ?_, fun rest hh => ?_⟩
  · have hstep := step_micro (s := s) (by simp [rstIn, hh]) (.inr (fetch_no_command (by simp [cmdIn, hh])))
    have hwait : waitHost s = s := by simp [waitHost, hh]
    rw [hstep, hwait, microStep_idle hp]
  · have hstep := step_micro (s := s) (by simp [rstIn, hh]) (.inr (fetch_no_command (by simp [cmdIn, hh])))
    have hwait : waitHost s = s.setHost rest := by simp [waitHost, hh]
    rw [hstep, hwait, microStep_setHost, microStep_idle hp]

/-- Settles O12: `rst` is the first thing a step looks at. -/
theorem rstWinsInEveryState : Obligations.RstWinsInEveryState := by
  intro s rest hh
  rw [step_reset (by simp [rstIn, hh]), popHost_eq hh, applyReset, State.setHost_host]

/-- Settles O13. -/
theorem resetLeavesTheListedValues : Obligations.ResetLeavesTheListedValues :=
  ⟨fun _ => ⟨rfl, rfl, rfl, rfl, fun i => Memory.read_nil i, rfl, rfl⟩, rfl⟩

/-- Settles O27: SEED's meaning is its acceptance, the five writes of R102. -/
theorem seedIsAlwaysAccepted : Obligations.SeedIsAlwaysAccepted :=
  fun a0 a1 a2 s => execSeed_eq a0 a1 a2 s

/-- Settles O11: the first two rows run the accepted command; in the other seven the machine makes one micro-step, in
its phase and at its count. -/
theorem seederFollowsItsTransitionTable : Obligations.SeederFollowsItsTransitionTable := by
  intro s hr
  obtain ⟨k, hk⟩ := waitHost_eq s
  have hmicro (hp : s.phase ≠ .idle) : step s = .next ((microStep s).setHost k) := by
    rw [step_micro hr (.inl hp), hk, microStep_setHost]
  refine ⟨?_, ?_, ?_, ?_, ?_, ?_, ?_, ?_, ?_⟩
  · intro a0 a1 a2 w rest hp _ hb hh hd
    rw [stepRunsTheAcceptedCommand s w rest _ ⟨hp, hb⟩ hh hd]
    rfl
  · intro i w rest t hp hc hb hh hd hop hstep
    rw [stepRunsTheAcceptedCommand s w rest i ⟨hp, hb⟩ hh hd] at hstep
    obtain ⟨hphase, hcnt, -⟩ := exec_frame hop hstep
    exact ⟨hstep, hphase.trans hp, hcnt.trans hc⟩
  · intro hp hc
    have hne : s.cnt ≠ 127 := by bv_omega
    rw [hmicro (by simp [hp]), microStep_warm_more hp hne, hk]
    rfl
  · intro hp hc
    rw [hmicro (by simp [hp]), microStep_warm_last hp hc, hk]
    rfl
  · intro hp hc
    rw [hmicro (by simp [hp]), microStep_hist_more hp (by simp [hc]), hk, hc]
    rfl
  · intro hp hc
    rw [hmicro (by simp [hp]), microStep_hist_more hp (by simp [hc]), hk, hc]
    rfl
  · intro hp hc
    rw [hmicro (by simp [hp]), microStep_hist_last hp hc, hk, hc]
    rfl
  · intro hp hc
    have hne : s.cnt ≠ 16383 := by bv_omega
    rw [hmicro (by simp [hp]), microStep_fill_more hp hne, hk]
    rfl
  · intro hp hc
    rw [hmicro (by simp [hp]), microStep_fill_last hp hc, hk]
    rfl

end Sys2Proof.Machine

/-! PROOFS. The canonical form of the table (20_memory.md section 1), and what draws keep: the words of the table
together with the responses, the last three responses in the history, and the all-zero state (41_shuffle_step.md
sections 2, 3). -/

namespace Sys2Proof.Machine

/-! ## Tables in canonical form -/

theorem Memory.wfFrom_cons {lo k : Nat} {v : Word} {t : Memory} :
    Memory.wfFrom lo ((k, v) :: t) = true ↔ lo ≤ k ∧ k < 16384 ∧ Memory.wfFrom (k + 1) t = true := by
  simp [Memory.wfFrom, and_assoc]

/-- The indices of a canonical list are all at or above its bound. -/
theorem Memory.lookup_lt {t : Memory} {lo i : Nat} (h : Memory.wfFrom lo t = true) (hi : i < lo) :
    t.lookup i = none := by
  induction t generalizing lo with
  | nil => rfl
  | cons e t ih =>
    obtain ⟨k, v⟩ := e
    obtain ⟨hlo, -, ht⟩ := Memory.wfFrom_cons.mp h
    rw [Memory.lookup_cons_other v t (by omega)]
    exact ih ht (by omega)

/-- The head of a canonical list has its lowest index. -/
theorem Memory.head_le {t : Memory} {lo k i : Nat} {v x : Word} (h : Memory.wfFrom lo ((k, v) :: t) = true)
    (hx : List.lookup i ((k, v) :: t) = some x) : k ≤ i := by
  by_contra hlt
  obtain ⟨-, hk, ht⟩ := Memory.wfFrom_cons.mp h
  have hself : Memory.wfFrom k ((k, v) :: t) = true := Memory.wfFrom_cons.mpr ⟨le_refl k, hk, ht⟩
  rw [Memory.lookup_lt hself (Nat.lt_of_not_le hlt)] at hx
  cases hx

/-- Extensionality: the heads have the same index, being the lowest that either list holds, and the tails agree. -/
theorem Memory.ext_of_lookup {t u : Memory} {lo : Nat} (ht : Memory.wfFrom lo t = true)
    (hu : Memory.wfFrom lo u = true) (h : ∀ i < 16384, t.lookup i = u.lookup i) : t = u := by
  induction t generalizing lo u with
  | nil =>
    cases u with
    | nil => rfl
    | cons e u =>
      obtain ⟨k, v⟩ := e
      obtain ⟨-, hk, -⟩ := Memory.wfFrom_cons.mp hu
      have hv := h k hk
      rw [Memory.lookup_cons_same] at hv
      cases hv
  | cons e t ih =>
    obtain ⟨k, v⟩ := e
    obtain ⟨hlo, hk, ht'⟩ := Memory.wfFrom_cons.mp ht
    have hkv := h k hk
    rw [Memory.lookup_cons_same] at hkv
    cases u with
    | nil => cases hkv
    | cons e' u =>
      obtain ⟨j, x⟩ := e'
      obtain ⟨-, hj, hu'⟩ := Memory.wfFrom_cons.mp hu
      have hjx := h j hj
      rw [Memory.lookup_cons_same] at hjx
      obtain rfl : k = j := le_antisymm (Memory.head_le ht hjx) (Memory.head_le hu hkv.symm)
      rw [Memory.lookup_cons_same] at hkv
      cases hkv
      have hrest : ∀ i < 16384, t.lookup i = u.lookup i := by
        intro i hi
        by_cases hik : i = k
        · rw [Memory.lookup_lt ht' (by omega), Memory.lookup_lt hu' (by omega)]
        · have hi' := h i hi
          rwa [Memory.lookup_cons_other v t hik, Memory.lookup_cons_other v u hik] at hi'
      rw [ih ht' hu' hrest]

/-- Settles O15: reads are look-ups at every index below 16384. -/
theorem canonicalTablesThatReadAlikeAreEqual : Obligations.CanonicalTablesThatReadAlikeAreEqual := by
  intro t u ht hu h
  refine Memory.ext_of_lookup ht hu fun i hi => ?_
  have hread := h (BitVec.ofNat 14 i)
  rwa [Memory.read, Memory.read, BitVec.toNat_ofNat, Nat.mod_eq_of_lt hi] at hread

/-- Writing a slot's own word changes nothing. -/
theorem Memory.write_self {t : Memory} {i : Index} {v : Word} (hw : t.wf = true) (h : t.read i = some v) :
    t.write i v = t := by
  refine canonicalTablesThatReadAlikeAreEqual _ _ (Memory.wf_write t i v hw) hw fun j => ?_
  rw [Memory.read_write]
  split_ifs with hj
  · rw [hj, h]
  · rfl

/-- A write to a written slot exchanges one word of the table. -/
theorem Memory.words_put_perm {t : Memory} {lo k : Nat} {y : Word} (v : Word) (hw : Memory.wfFrom lo t = true)
    (h : t.lookup k = some y) : (y :: (Memory.put k v t).words).Perm (v :: t.words) := by
  induction t generalizing lo with
  | nil => cases h
  | cons e t ih =>
    obtain ⟨j, u⟩ := e
    have hjk : ¬ k < j := Nat.not_lt_of_le (Memory.head_le hw h)
    obtain ⟨-, -, ht⟩ := Memory.wfFrom_cons.mp hw
    rw [Memory.put, if_neg hjk]
    split_ifs with hk
    · subst hk
      rw [Memory.lookup_cons_same] at h
      cases h
      exact List.Perm.swap _ _ _
    · rw [Memory.lookup_cons_other u t hk] at h
      calc (y :: u :: (Memory.put k v t).words).Perm (u :: y :: (Memory.put k v t).words) := List.Perm.swap u y _
        _ |>.Perm (u :: v :: Memory.words t) := (ih ht h).cons u
        _ |>.Perm (v :: u :: Memory.words t) := List.Perm.swap v u _

/-! ## What draws keep -/

/-- Settles O25: each draw takes the word `x` out of the table and puts the raw word in. -/
theorem drawsConserveWords : Obligations.DrawsConserveWords := by
  intro n
  induction n with
  | zero =>
    intro s t ys _ h
    cases h
    exact List.Perm.refl _
  | succ n ih =>
    intro s t ys hw h
    obtain ⟨x, s1, zs, hd, hds, rfl⟩ := draws_succ_cases h
    obtain ⟨-, hread, rfl⟩ := draw_cases hd
    have hswap : (x :: (afterDraw s x).table.words).Perm (s.gen.step.combine :: s.table.words) :=
      Memory.words_put_perm _ hw hread
    have hrest : (t.table.words ++ zs).Perm ((afterDraw s x).table.words ++ rawWords n s.gen.step) :=
      ih (afterDraw s x) t zs (Memory.wf_write _ _ _ hw) hds
    calc (t.table.words ++ x :: zs).Perm (x :: (t.table.words ++ zs)) := List.perm_middle
      _ |>.Perm (x :: ((afterDraw s x).table.words ++ rawWords n s.gen.step)) := hrest.cons x
      _ |>.Perm (s.gen.step.combine :: s.table.words ++ rawWords n s.gen.step) := hswap.append_right _
      _ |>.Perm (s.table.words ++ rawWords (n + 1) s.gen) := List.perm_middle.symm

/-- Each draw shifts its response into the history (R88). -/
theorem draws_hist {n : Nat} {s t : State} {ys : List Word} (h : draws n s = .ok (ys, t)) :
    t.hist = ys.foldl Hist.shift s.hist := by
  induction n generalizing s ys with
  | zero => cases h; rfl
  | succ n ih =>
    obtain ⟨x, s1, zs, hd, hds, rfl⟩ := draws_succ_cases h
    obtain ⟨-, -, rfl⟩ := draw_cases hd
    simpa using ih hds

theorem foldl_shift_three (xs : List Word) (a b c : Word) (h : Hist) :
    (xs ++ [a, b, c]).foldl Hist.shift h = ⟨c, b, a⟩ := by
  simp [List.foldl_append, Hist.shift]

/-- Settles O24: three shifts leave the three words shifted in, whatever the history held. -/
theorem historyHoldsTheLastThreeResponses : Obligations.HistoryHoldsTheLastThreeResponses := by
  intro n s t ys h
  have hlen : (ys.drop n).length = 3 := by rw [List.length_drop, draws_length h]; omega
  obtain ⟨a, b, c, hlast⟩ := List.length_eq_three.mp hlen
  have hys : ys = ys.take n ++ [a, b, c] := by rw [← hlast, List.take_append_drop]
  have htake : (ys.take n).length = n := by rw [List.length_take, draws_length h]; omega
  have hhist : t.hist = ⟨c, b, a⟩ := by rw [draws_hist h, hys, foldl_shift_three]
  rw [hhist, hys]
  simp [htake]

/-! ## The all-zero state -/

/-- A draw in the all-zero state answers 0 and stores 0 where 0 was. -/
theorem draw_all_zero {s : State} (hs : s.seeded = true) (hw : s.table.wf = true) (hg : s.gen = ⟨0, 0, 0⟩)
    (hh : s.hist = ⟨0, 0, 0⟩) (hz : ∀ i : Index, s.table.read i = some 0) : draw s = .ok (0, s) := by
  have hgen : s.gen.step = s.gen := by rw [hg]; decide
  have hraw : s.gen.combine = 0 := by rw [hg]; decide
  have hafter : afterDraw s 0 = s :=
    State.eq_of_fields hgen (by rw [afterDraw_hist, hh]; rfl)
      (by rw [afterDraw_table, hgen, hraw, Memory.write_self hw (hz _)]) rfl rfl rfl rfl rfl rfl
  rw [draw_written hs (hz _), hafter]

theorem draws_of_fixed {s : State} {x : Word} (h : draw s = .ok (x, s)) (n : Nat) :
    draws n s = .ok (List.replicate n x, s) := by
  induction n with
  | zero => rfl
  | succ n ih => exact draws_succ h ih

theorem f53Of_replicate_zero (n : Nat) : f53Of (List.replicate n 0) = 0 := by
  induction n with
  | zero => rfl
  | succ n ih => exact ih

theorem mag_zero : mag 0 = 0 := rfl

theorem bndOf_zero (limit : Word) : bndOf limit 0 = 0 := by
  rw [bndOf, mag_zero, Nat.zero_mul, Nat.zero_div]
  rfl

theorem bitsOf_zero (n : BitVec 8) : bitsOf n 0 = 0 := by
  simp [bitsOf, shr, zext64]

/-- Settles O26: a draw answers 0 and changes nothing, and each transform takes draws of 0 to 0. -/
theorem allZeroStateAnswersZero : Obligations.AllZeroStateAnswersZero := by
  intro s hs hw hg hh hz
  have hd : draw s = .ok (0, s) := draw_all_zero hs hw hg hh hz
  refine ⟨transform_ok hd, transform_ok hd, ?_, fun limit hl => ?_, fun n h0 h31 => ?_, transform_ok hd⟩
  · rw [exec_f53_eq, execF53_ok (draws_of_fixed hd _), f53Of_replicate_zero]
    rfl
  · rw [exec_bnd_eq, execBnd_pos hs hl, transform_ok hd, bndOf_zero]
  · have hpos : n.toNat ≠ 0 := fun h => h0 (BitVec.eq_of_toNat_eq h)
    rw [exec_bits_eq, execBits_in_range hs (by omega) (by omega), transform_ok hd, bitsOf_zero]

/-- Settles O16: the shift by 18 leaves 14 bits, so that the index is not cut. -/
theorem slotIndexIsTheTopFourteenBits : Obligations.SlotIndexIsTheTopFourteenBits := by
  refine fun v => ⟨?_, slotIndex_eq_extractLsb' v⟩
  have hlt : v.toNat / 2 ^ 18 < 2 ^ 14 := by have := v.isLt; omega
  rw [slotIndex, indexShift, BitVec.toNat_setWidth, shr_toNat, Nat.mod_eq_of_lt hlt]

end Sys2Proof.Machine

/-! PROOFS. The feedback units bit by bit (40_feedback_units.md sections 2, 3): the two terms of the common form tile
the word, the form is linear over XOR, and its kernel is what the mask cuts off. -/

namespace Sys2Proof.Machine

/-! ## Constants whose two terms tile the word -/

/-- The mask clears the low `m` bits, the masked and shifted word fills the bits from `m + shiftA` on, and the other
term the bits below. -/
structure UnitConsts.Tiles (u : UnitConsts) (m : Nat) : Prop where
  mask : ∀ j < 32, u.maskA.getLsbD j = decide (m ≤ j)
  tiling : m + u.shiftA + u.shiftC = 32
  shiftB_pos : 0 < u.shiftB
  shiftB_le : m + u.shiftB ≤ u.shiftC

theorem unit1_tiles : unit1.Tiles 1 := ⟨by decide, by decide, by decide, by decide⟩
theorem unit2_tiles : unit2.Tiles 3 := ⟨by decide, by decide, by decide, by decide⟩
theorem unit3_tiles : unit3.Tiles 4 := ⟨by decide, by decide, by decide, by decide⟩

/-- One bit of an update, for any constants. -/
theorem feedback_getLsbD (u : UnitConsts) (s : Word) (i : Nat) :
    (feedback u s).getLsbD i =
      ((decide (i < 32) && !decide (i < u.shiftA) &&
          (s.getLsbD (i - u.shiftA) && u.maskA.getLsbD (i - u.shiftA))) ^^
        ((decide (u.shiftC + i < 32) && !decide (u.shiftC + i < u.shiftB) && s.getLsbD (u.shiftC + i - u.shiftB)) ^^
          s.getLsbD (u.shiftC + i))) := by
  simp only [feedback, shl, shr, BitVec.getLsbD_xor, BitVec.getLsbD_shiftLeft, BitVec.getLsbD_ushiftRight,
    BitVec.getLsbD_and]

/-- Above the seam the update is the word shifted left. -/
theorem feedback_getLsbD_high {u : UnitConsts} {m i : Nat} (h : u.Tiles m) (s : Word) (hi : m + u.shiftA ≤ i)
    (h32 : i < 32) : (feedback u s).getLsbD i = s.getLsbD (i - u.shiftA) := by
  have ht := h.tiling
  have hkept : m ≤ i - u.shiftA := by omega
  have hmask : u.maskA.getLsbD (i - u.shiftA) = true := by rw [h.mask _ (by omega), decide_eq_true hkept]
  have hout : s.getLsbD (u.shiftC + i) = false := BitVec.getLsbD_of_ge _ _ (by omega)
  have hlt : ¬ i < u.shiftA := by omega
  have hge : ¬ u.shiftC + i < 32 := by omega
  simp only [feedback_getLsbD, h32, hmask, hout, hlt, hge, decide_true, decide_false, Bool.not_false, Bool.and_true,
    Bool.true_and, Bool.false_and, Bool.xor_false]

/-- Below the seam the update is the XOR of two bits of the word. -/
theorem feedback_getLsbD_low {u : UnitConsts} {m i : Nat} (h : u.Tiles m) (s : Word) (hi : i < m + u.shiftA) :
    (feedback u s).getLsbD i =
      (s.getLsbD (u.shiftC + i - u.shiftB) ^^ s.getLsbD (u.shiftC + i)) := by
  have ht := h.tiling
  have hb := h.shiftB_le
  have hmask : (!decide (i < u.shiftA) && u.maskA.getLsbD (i - u.shiftA)) = false := by
    by_cases hlt : i < u.shiftA
    · simp [hlt]
    · have hcut : ¬ m ≤ i - u.shiftA := by omega
      rw [h.mask _ (by omega), decide_eq_false hcut, Bool.and_false]
  have hin : ¬ u.shiftC + i < u.shiftB := by omega
  have hlt : u.shiftC + i < 32 := by omega
  have hcut : (decide (i < 32) && !decide (i < u.shiftA) &&
      (s.getLsbD (i - u.shiftA) && u.maskA.getLsbD (i - u.shiftA))) = false := by
    rw [Bool.and_assoc, Bool.and_left_comm (!decide (i < u.shiftA)), hmask, Bool.and_false, Bool.and_false]
  rw [feedback_getLsbD, hcut, decide_eq_true hlt, decide_eq_false hin, Bool.false_xor, Bool.not_false, Bool.true_and,
    Bool.true_and]

/-! ## The kernel -/

theorem toNat_lt_two_pow_iff (x : Word) (m : Nat) : x.toNat < 2 ^ m ↔ ∀ j, m ≤ j → x.getLsbD j = false := by
  constructor
  · intro h j hj
    exact Nat.testBit_lt_two_pow (Nat.lt_of_lt_of_le h (Nat.pow_le_pow_right (by decide) hj))
  · exact Nat.lt_pow_two_of_testBit _

/-- From an update below `2^m` every bit of the word from `m` on is 0: those under the seam one by one, the others
because each equals the bit `shiftB` below it. -/
theorem getLsbD_of_feedback_lt {u : UnitConsts} {m : Nat} (h : u.Tiles m) {s : Word}
    (hs : (feedback u s).toNat < 2 ^ m) (j : Nat) (hj : m ≤ j) : s.getLsbD j = false := by
  have ht := h.tiling
  have hbpos := h.shiftB_pos
  have hb := h.shiftB_le
  have hbits := (toNat_lt_two_pow_iff _ m).mp hs
  induction j using Nat.strong_induction_on with
  | _ j ih =>
    by_cases h32 : 32 ≤ j
    · exact BitVec.getLsbD_of_ge _ _ h32
    · by_cases hseam : j + u.shiftA < 32
      · have hbit := hbits (j + u.shiftA) (by omega)
        rwa [feedback_getLsbD_high h s (by omega) hseam, Nat.add_sub_cancel] at hbit
      · have hbit := hbits (j - u.shiftC) (by omega)
        have hbelow := ih (j - u.shiftB) (by omega) (by omega)
        rw [feedback_getLsbD_low h s (by omega), Nat.add_sub_cancel' (by omega), hbelow] at hbit
        simpa using hbit

/-- A word without bits from `m` on is updated to 0. -/
theorem feedback_eq_zero {u : UnitConsts} {m : Nat} (h : u.Tiles m) {s : Word} (hs : s.toNat < 2 ^ m) :
    feedback u s = 0 := by
  have ht := h.tiling
  have hb := h.shiftB_le
  have hzero := (toNat_lt_two_pow_iff s m).mp hs
  refine BitVec.eq_of_getLsbD_eq fun i h32 => ?_
  by_cases hi : m + u.shiftA ≤ i
  · rw [feedback_getLsbD_high h s hi h32, hzero _ (by omega)]
    simp
  · rw [feedback_getLsbD_low h s (by omega)]
    rw [hzero _ (by omega), hzero _ (by omega)]
    simp

theorem feedback_lt_iff {u : UnitConsts} {m : Nat} (h : u.Tiles m) (s : Word) :
    (feedback u s).toNat < 2 ^ m ↔ s.toNat < 2 ^ m := by
  refine ⟨fun hs => (toNat_lt_two_pow_iff s m).mpr (getLsbD_of_feedback_lt h hs), fun hs => ?_⟩
  rw [feedback_eq_zero h hs]
  exact Nat.two_pow_pos m

theorem feedback_eq_zero_iff {u : UnitConsts} {m : Nat} (h : u.Tiles m) (s : Word) :
    feedback u s = 0 ↔ s.toNat < 2 ^ m := by
  refine ⟨fun hs => (feedback_lt_iff h s).mp ?_, feedback_eq_zero h⟩
  rw [hs]
  exact Nat.two_pow_pos m

/-! ## Linearity -/

theorem xor_and_mask (a b mask : Word) : (a ^^^ b) &&& mask = (a &&& mask) ^^^ (b &&& mask) := by
  ext k hk
  simp [Bool.and_xor_distrib_right]

theorem feedback_xor (u : UnitConsts) (a b : Word) : feedback u (a ^^^ b) = feedback u a ^^^ feedback u b := by
  simp only [feedback, shl, shr, xor_and_mask, BitVec.shiftLeft_xor_distrib,
    BitVec.ushiftRight_xor_distrib]
  ac_rfl

/-! ## The update's two fields -/

theorem feedback_field_high {u : UnitConsts} {m : Nat} (h : u.Tiles m) (s : Word) :
    (feedback u s).extractLsb' (m + u.shiftA) u.shiftC = s.extractLsb' m u.shiftC := by
  have ht := h.tiling
  refine BitVec.eq_of_getLsbD_eq fun k hk => ?_
  rw [BitVec.getLsbD_extractLsb', BitVec.getLsbD_extractLsb', feedback_getLsbD_high h s (by omega) (by omega),
    Nat.add_right_comm, Nat.add_sub_cancel]

theorem feedback_field_low {u : UnitConsts} {m : Nat} (h : u.Tiles m) (s : Word) :
    (feedback u s).extractLsb' 0 (m + u.shiftA) =
      s.extractLsb' (u.shiftC - u.shiftB) (m + u.shiftA) ^^^ s.extractLsb' u.shiftC (m + u.shiftA) := by
  have hb := h.shiftB_le
  refine BitVec.eq_of_getLsbD_eq fun k hk => ?_
  rw [BitVec.getLsbD_xor, BitVec.getLsbD_extractLsb', BitVec.getLsbD_extractLsb', BitVec.getLsbD_extractLsb',
    feedback_getLsbD_low h s (by omega), decide_eq_true hk, Nat.zero_add, Nat.sub_add_comm (by omega),
    Bool.true_and, Bool.true_and, Bool.true_and]

/-! ## The statements -/

/-- Settles O18: the two fields of an update, above and below the seam of its unit. -/
theorem unitUpdatesBitByBit : Obligations.UnitUpdatesBitByBit :=
  fun s => ⟨feedback_field_high unit1_tiles s, feedback_field_low unit1_tiles s, feedback_field_high unit2_tiles s,
    feedback_field_low unit2_tiles s, feedback_field_high unit3_tiles s, feedback_field_low unit3_tiles s⟩

/-- Settles O19. -/
theorem unitsAreXorLinear : Obligations.UnitsAreXorLinear :=
  fun a b => ⟨feedback_xor unit1 a b, feedback_xor unit2 a b, feedback_xor unit3 a b⟩

/-- Settles O20: by induction on the raw steps; a step kills exactly the degenerate words, and keeps a word degenerate
exactly when it is. -/
theorem unitIsDeadExactlyForDegenerateSeeds : Obligations.UnitIsDeadExactlyForDegenerateSeeds := by
  intro n
  induction n with
  | zero =>
    exact fun g => ⟨feedback_eq_zero_iff unit1_tiles g.s1, feedback_eq_zero_iff unit2_tiles g.s2,
      feedback_eq_zero_iff unit3_tiles g.s3⟩
  | succ n ih =>
    intro g
    obtain ⟨h1, h2, h3⟩ := ih g.step
    exact ⟨h1.trans (feedback_lt_iff unit1_tiles g.s1), h2.trans (feedback_lt_iff unit2_tiles g.s2),
      h3.trans (feedback_lt_iff unit3_tiles g.s3)⟩

end Sys2Proof.Machine

/-! PROOFS. SEED (42_seeder.md): the machine's 16515 micro-steps, phase by phase, end in the state of the whole
command; what follows for the host, for a later SEED and for the draws after it. -/

namespace Sys2Proof.Machine

/-! ## The machine at work -/

/-- The engine in the middle of a SEED: busy, unseeded, no response. -/
def working (k : List HostAct) (g : Gen) (h : Hist) (t : Memory) (p : Phase) (c : BitVec 14) : State where
  gen := g
  hist := h
  table := t
  phase := p
  cnt := c
  seeded := false
  busy := true
  rsp := none
  host := k

/-- The engine right after the last micro-step of a SEED (R105). -/
def seedDone (k : List HostAct) (g : Gen) (h : Hist) (t : Memory) : State where
  gen := g
  hist := h
  table := t
  phase := .idle
  cnt := 0
  seeded := true
  busy := false
  rsp := some 0
  host := k

/-- The table after the first `n` fill micro-steps, from units holding `g` and a table `t` (R105). -/
def filled (g : Gen) (t : Memory) : Nat → Memory
  | 0 => t
  | n + 1 => (filled g t n).write (BitVec.ofNat 14 n) (rawWord g (n + 1))

theorem execSeed_working (a0 a1 a2 : Word) (s : State) :
    execSeed a0 a1 a2 s = .next (working s.host ⟨a0, a1, a2⟩ s.hist s.table .warm 0) := rfl

theorem filled_succ (g : Gen) (t : Memory) (n : Nat) :
    filled g t (n + 1) = (filled g t n).write (BitVec.ofNat 14 n) (Gen.iter n g).step.combine := by
  rw [filled, rawWord_succ]

theorem filled_read (g : Gen) (t : Memory) {n : Nat} (hn : n ≤ 16384) (i : Index) :
    (filled g t n).read i = if i.toNat < n then some (rawWord g (i.toNat + 1)) else t.read i := by
  induction n with
  | zero => rfl
  | succ n ih =>
    have hnat : (BitVec.ofNat 14 n).toNat = n := by rw [BitVec.toNat_ofNat]; omega
    rw [filled, Memory.read_write, ih (by omega)]
    by_cases hi : i = BitVec.ofNat 14 n
    · rw [if_pos hi, hi, hnat, if_pos (Nat.lt_succ_self n)]
    · have hne : i.toNat ≠ n := fun h => hi (BitVec.eq_of_toNat_eq (h.trans hnat.symm))
      have hiff : i.toNat < n + 1 ↔ i.toNat < n := by omega
      simp only [if_neg hi, hiff]

theorem filled_wf (g : Gen) {t : Memory} (h : t.wf = true) (n : Nat) : (filled g t n).wf = true := by
  induction n with
  | zero => exact h
  | succ n ih => exact Memory.wf_write _ _ _ ih

/-- The fill leaves nothing of the table before it. -/
theorem filled_eq_fillWords (g : Gen) {t : Memory} (h : t.wf = true) :
    filled g t 16384 = fillWords 16384 0 g := by
  refine canonicalTablesThatReadAlikeAreEqual _ _ (filled_wf g h _) (fillWords_wf _ _ _ (by omega)) fun i => ?_
  have hi := i.isLt
  rw [filled_read g t (le_refl _), if_pos hi, Memory.read, fillWords_lookup, if_pos (by omega), Nat.sub_zero]

/-! ## The micro-steps, phase by phase -/

theorem microSteps_succ_end (n : Nat) (s : State) : microSteps (n + 1) s = microStep (microSteps n s) :=
  microSteps_add n 1 s

section
variable (k : List HostAct) (g : Gen) (h : Hist) (t : Memory)

theorem microSteps_warm {n : Nat} (hn : n < 128) :
    microSteps n (working k g h t .warm 0) = working k (Gen.iter n g) h t .warm (BitVec.ofNat 14 n) := by
  induction n with
  | zero => rfl
  | succ n ih =>
    have hc : BitVec.ofNat 14 n ≠ 127 := by bv_omega
    rw [microSteps_succ_end, ih (by omega), microStep_warm_more rfl hc, Gen.iter_succ_end, BitVec.ofNat_add]
    rfl

theorem microSteps_warm_all :
    microSteps 128 (working k g h t .warm 0) = working k (Gen.iter 128 g) h t .hist 0 := by
  rw [microSteps_succ_end 127, microSteps_warm k g h t (by decide), microStep_warm_last rfl rfl,
    Gen.iter_succ_end 127]
  rfl

theorem microSteps_hist_one : microSteps 1 (working k g h t .hist 0) =
    working k (Gen.iter 1 g) ⟨rawWord g 1, h.prev, h.pprev⟩ t .hist 1 := by
  rw [microSteps_succ_end 0, microSteps, microStep_hist_more rfl (show (0 : BitVec 14) ≠ 2 by decide)]
  rfl

theorem microSteps_hist_two : microSteps 2 (working k g h t .hist 0) =
    working k (Gen.iter 2 g) ⟨rawWord g 1, rawWord g 2, h.pprev⟩ t .hist 2 := by
  rw [microSteps_succ_end 1, microSteps_hist_one, microStep_hist_more rfl (show (1 : BitVec 14) ≠ 2 by decide)]
  rfl

theorem microSteps_hist_all : microSteps 3 (working k g h t .hist 0) =
    working k (Gen.iter 3 g) ⟨rawWord g 1, rawWord g 2, rawWord g 3⟩ t .fill 0 := by
  rw [microSteps_succ_end 2, microSteps_hist_two, microStep_hist_last rfl rfl]
  rfl

theorem microSteps_fill {n : Nat} (hn : n < 16384) :
    microSteps n (working k g h t .fill 0) =
      working k (Gen.iter n g) h (filled g t n) .fill (BitVec.ofNat 14 n) := by
  induction n with
  | zero => rfl
  | succ n ih =>
    have hc : BitVec.ofNat 14 n ≠ 16383 := by bv_omega
    rw [microSteps_succ_end, ih (by omega), microStep_fill_more rfl hc, filled_succ, Gen.iter_succ_end,
      BitVec.ofNat_add]
    rfl

/-- The last fill micro-step. Its number is a variable, so that no term of that size is unfolded. -/
theorem microSteps_fill_last {n : Nat} (hn : n = 16383) :
    microSteps (n + 1) (working k g h t .fill 0) = seedDone k (Gen.iter (n + 1) g) h (filled g t (n + 1)) := by
  have hc : BitVec.ofNat 14 n = 16383 := by rw [hn]; rfl
  rw [microSteps_succ_end, microSteps_fill k g h t (by omega), microStep_fill_last rfl hc, filled_succ,
    Gen.iter_succ_end]
  rfl

theorem microSteps_fill_all :
    microSteps 16384 (working k g h t .fill 0) = seedDone k (Gen.iter 16384 g) h (filled g t 16384) :=
  microSteps_fill_last k g h t rfl

/-- The whole of the machine's work. -/
theorem microSteps_seed_all :
    microSteps 16515 (working k g h t .warm 0) =
      seedDone k (Gen.iter 16515 g) ⟨rawWord g 129, rawWord g 130, rawWord g 131⟩
        (filled (Gen.iter 131 g) t 16384) := by
  rw [show 16515 = 128 + (3 + 16384) from rfl, microSteps_add, microSteps_warm_all, microSteps_add,
    microSteps_hist_all, microSteps_fill_all, ← Gen.iter_add, rawWord_iter, rawWord_iter, rawWord_iter,
    show Gen.iter 3 (Gen.iter 128 g) = Gen.iter 131 g from (Gen.iter_add 128 3 g).symm, ← Gen.iter_add]

/-- Before its last micro-step the machine is at work. -/
theorem microSteps_seed_lt {n : Nat} (hn : n < 16515) :
    ∃ g' h' t' p c, microSteps n (working k g h t .warm 0) = working k g' h' t' p c ∧ p ≠ .idle := by
  by_cases hwarm : n < 128
  · exact ⟨_, _, _, _, _, microSteps_warm k g h t hwarm, nofun⟩
  obtain ⟨m, rfl⟩ := Nat.exists_eq_add_of_le (Nat.le_of_not_lt hwarm)
  rw [microSteps_add, microSteps_warm_all]
  match m with
  | 0 => exact ⟨_, _, _, _, _, rfl, nofun⟩
  | 1 => exact ⟨_, _, _, _, _, microSteps_hist_one _ _ _ _, nofun⟩
  | 2 => exact ⟨_, _, _, _, _, microSteps_hist_two _ _ _ _, nofun⟩
  | m + 3 =>
    rw [Nat.add_comm, microSteps_add, microSteps_hist_all]
    exact ⟨_, _, _, _, _, microSteps_fill _ _ _ _ (by omega), nofun⟩

end

/-! ## The whole command -/

theorem eq_seedDone {s : State} {k : List HostAct} {g : Gen} {h : Hist} {t : Memory} (hgen : s.gen = g)
    (hhist : s.hist = h) (htable : s.table = t) (hphase : s.phase = .idle) (hcnt : s.cnt = 0)
    (hseeded : s.seeded = true) (hbusy : s.busy = false) (hrsp : s.rsp = some 0) (hhost : s.host = k) :
    s = seedDone k g h t :=
  State.eq_of_fields hgen hhist htable hphase hcnt hseeded hbusy hrsp hhost

theorem seedDone_setHost (k k' : List HostAct) (g : Gen) (h : Hist) (t : Memory) :
    (seedDone k g h t).setHost k' = seedDone k' g h t := rfl

theorem seedWhole_eq_seedDone (a0 a1 a2 : Word) (s : State) :
    seedWhole a0 a1 a2 s = seedDone s.host (Gen.iter 16515 ⟨a0, a1, a2⟩)
      ⟨rawWord ⟨a0, a1, a2⟩ 129, rawWord ⟨a0, a1, a2⟩ 130, rawWord ⟨a0, a1, a2⟩ 131⟩
      (fillWords 16384 0 (Gen.iter 131 ⟨a0, a1, a2⟩)) :=
  eq_seedDone (seedWhole_gen a0 a1 a2 s) (seedWhole_hist a0 a1 a2 s) (seedWhole_table a0 a1 a2 s)
    (seedWhole_phase a0 a1 a2 s) (seedWhole_cnt a0 a1 a2 s) (seedWhole_seeded a0 a1 a2 s)
    (seedWhole_busy a0 a1 a2 s) (seedWhole_rsp a0 a1 a2 s) (seedWhole_host a0 a1 a2 s)

/-- The machine and the one-transition form of SEED agree (R107). -/
theorem microSteps_seed (a0 a1 a2 : Word) (s : State) (hw : s.table.wf = true) :
    microSteps 16515 (working s.host ⟨a0, a1, a2⟩ s.hist s.table .warm 0) = seedWhole a0 a1 a2 s := by
  rw [microSteps_seed_all, filled_eq_fillWords _ hw, seedWhole_eq_seedDone]

theorem microSteps_of_exec_seed {a0 a1 a2 : Word} {s t : State} (hw : s.table.wf = true)
    (h : exec (.seed a0 a1 a2) s = .next t) : microSteps 16515 t = seedWhole a0 a1 a2 s := by
  rw [exec_seed_eq, execSeed_working] at h
  cases h
  exact microSteps_seed a0 a1 a2 s hw

/-- A whole SEED forgets everything but the host. -/
theorem seedWhole_forgets (a0 a1 a2 : Word) (s s' : State) :
    seedWhole a0 a1 a2 s = (seedWhole a0 a1 a2 s').setHost s.host := by
  rw [seedWhole_eq_seedDone, seedWhole_eq_seedDone, seedDone_setHost]

/-- Settles O28: the machine at work for all but the last micro-step, and the whole command field by field. -/
theorem seedRunsToTheStateOfTheRule : Obligations.SeedRunsToTheStateOfTheRule := by
  intro a0 a1 a2 s hw
  refine ⟨working s.host ⟨a0, a1, a2⟩ s.hist s.table .warm 0, seedWhole a0 a1 a2 s, ?_, fun n hn => ?_,
    microSteps_seed a0 a1 a2 s hw, seedWhole_gen a0 a1 a2 s, seedWhole_hist a0 a1 a2 s, seedWhole_read a0 a1 a2 s,
    seedWhole_wf a0 a1 a2 s, seedWhole_phase a0 a1 a2 s, seedWhole_cnt a0 a1 a2 s, seedWhole_seeded a0 a1 a2 s,
    seedWhole_busy a0 a1 a2 s, seedWhole_rsp a0 a1 a2 s, seedWhole_host a0 a1 a2 s⟩
  · rw [exec_seed_eq, execSeed_working]
  · obtain ⟨g', h', t', p, c, hsteps, -⟩ := microSteps_seed_lt s.host ⟨a0, a1, a2⟩ s.hist s.table hn
    rw [hsteps]
    exact ⟨rfl, rfl⟩

/-- Settles O30: both runs end in the whole command's state, which depends on the host alone. -/
theorem reseedingForgetsThePast : Obligations.ReseedingForgetsThePast := by
  intro a0 a1 a2 s s' t t' hw hw' hhost h h'
  rw [microSteps_of_exec_seed hw h, microSteps_of_exec_seed hw' h', seedWhole_forgets a0 a1 a2 s s', hhost,
    ← seedWhole_host a0 a1 a2 s', State.setHost_self]

/-! ## The steps of a SEED, with the host's waits -/

/-- A host that asserts no `rst` during the next `n` steps of a machine at work: it waits, and then does nothing more,
presents a command, or has waited long enough. -/
def quietFor (n k : Nat) (after : List HostAct) : Prop :=
  n ≤ k ∨ after = [] ∨ ∃ w more, after = .command w :: more

theorem step_at_work {n k : Nat} {after : List HostAct} {s : State} (hp : s.phase ≠ .idle)
    (hq : quietFor (n + 1) k after) :
    step (s.setHost (List.replicate k HostAct.wait ++ after)) =
      .next ((microStep s).setHost (List.replicate (k - 1) HostAct.wait ++ after)) := by
  have hmicro {h h' : List HostAct} (hr : rstIn (s.setHost h) = false)
      (hwait : waitHost (s.setHost h) = s.setHost h') :
      step (s.setHost h) = .next ((microStep s).setHost h') := by
    rw [step_micro hr (.inl hp), hwait, microStep_setHost]
  cases k with
  | succ k => exact hmicro rfl rfl
  | zero =>
    rcases hq with hle | rfl | ⟨w, more, rfl⟩
    · cases hle
    · exact hmicro rfl rfl
    · exact hmicro rfl rfl

theorem steps_succ {n : Nat} {s s' : State} (h : step s = .next s') : steps (n + 1) s = steps n s' := by
  rw [steps, h]

theorem quietFor_pred {n k : Nat} {after : List HostAct} (h : quietFor (n + 1) k after) :
    quietFor n (k - 1) after := by
  rcases h with hle | hafter
  · exact .inl (by omega)
  · exact .inr hafter

/-- `n` steps of a machine at work are `n` micro-steps and `n` waits of the host. -/
theorem steps_at_work {n k : Nat} {after : List HostAct} {s : State}
    (hp : ∀ j < n, (microSteps j s).phase ≠ .idle) (hq : quietFor n k after) :
    steps n (s.setHost (List.replicate k HostAct.wait ++ after)) =
      .next ((microSteps n s).setHost (List.replicate (k - n) HostAct.wait ++ after)) := by
  induction n generalizing k s with
  | zero => rfl
  | succ n ih =>
    have hp' : ∀ j < n, (microSteps j (microStep s)).phase ≠ .idle := fun j hj => hp (j + 1) (by omega)
    have hfirst : s.phase ≠ .idle := hp 0 (Nat.succ_pos n)
    rw [steps_succ (step_at_work hfirst hq), ih hp' (quietFor_pred hq), Nat.sub_sub, Nat.add_comm 1]
    rfl

/-- Settles O29: the acceptance, then 16515 steps of the machine at work. -/
theorem seedTakes16516StepsToSeedWhole : Obligations.SeedTakes16516StepsToSeedWhole := by
  rintro a0 a1 a2 s k after hrest hw hhost hq
  have haccept : step s = .next ((working s.host ⟨a0, a1, a2⟩ s.hist s.table .warm 0).setHost
      (List.replicate k HostAct.wait ++ after)) := by
    rw [stepRunsTheAcceptedCommand s _ _ _ hrest hhost (decode_encode rfl), exec_seed_eq, execSeed_working]
    rfl
  have hwork : ∀ j < 16515,
      (microSteps j (working s.host ⟨a0, a1, a2⟩ s.hist s.table .warm 0)).phase ≠ .idle := by
    intro j hj
    obtain ⟨g', h', t', p, c, hsteps, hp⟩ := microSteps_seed_lt s.host ⟨a0, a1, a2⟩ s.hist s.table hj
    rw [hsteps]
    exact hp
  rw [show 16516 = 16515 + 1 from rfl, steps_succ haccept, steps_at_work hwork hq, microSteps_seed a0 a1 a2 s hw]

/-! ## The draws after a SEED -/

/-- A draw that answers neither reads nor moves the host. -/
theorem draws_setHost {n : Nat} {s t : State} {ys : List Word} (k : List HostAct) (h : draws n s = .ok (ys, t)) :
    draws n (s.setHost k) = .ok (ys, t.setHost k) := by
  induction n generalizing s ys with
  | zero => cases h; rfl
  | succ n ih =>
    obtain ⟨x, s1, zs, hd, hds, rfl⟩ := draws_succ_cases h
    obtain ⟨hs, hr, rfl⟩ := draw_cases hd
    have hd' : draw (s.setHost k) = .ok (x, (afterDraw s x).setHost k) := draw_written hs hr
    exact draws_succ hd' (ih hds)

/-- Settles O31: the words drawn from the whole command's state, which answers every draw. -/
theorem streamIsAFunctionOfTheSeed : Obligations.StreamIsAFunctionOfTheSeed := by
  intro a0 a1 a2 n
  obtain ⟨ys, v, hd, -⟩ := draws_ready n (seedWhole a0 a1 a2 State.reset) (seedWhole_ready a0 a1 a2 State.reset)
  refine ⟨ys, draws_length hd, fun s t hw h => ⟨v.setHost s.host, ?_⟩⟩
  rw [microSteps_of_exec_seed hw h, seedWhole_forgets a0 a1 a2 s State.reset]
  exact draws_setHost s.host hd

/-- Draws from units that have made `m` raw steps store raw words of later steps only. -/
theorem draws_slots {g : Gen} {m n : Nat} {s t : State} {ys : List Word} (hg : s.gen = Gen.iter m g)
    (hm : 131 ≤ m) (hs : ∀ i : Index, ∃ k, 132 ≤ k ∧ k ≤ m ∧ s.table.read i = some (rawWord g k))
    (h : draws n s = .ok (ys, t)) :
    ∀ i : Index, ∃ k, 132 ≤ k ∧ k ≤ m + n ∧ t.table.read i = some (rawWord g k) := by
  induction n generalizing m s ys with
  | zero => cases h; exact hs
  | succ n ih =>
    obtain ⟨x, s1, zs, hd, hds, rfl⟩ := draws_succ_cases h
    obtain ⟨-, -, rfl⟩ := draw_cases hd
    have hg' : (afterDraw s x).gen = Gen.iter (m + 1) g := by rw [afterDraw_gen, hg, Gen.iter_succ_end]
    have hs' : ∀ i : Index, ∃ k, 132 ≤ k ∧ k ≤ m + 1 ∧ (afterDraw s x).table.read i = some (rawWord g k) := by
      intro i
      rw [afterDraw_table, Memory.read_write]
      split_ifs with hi
      · exact ⟨m + 1, by omega, le_refl _, by rw [rawWord_succ, hg]⟩
      · obtain ⟨k, hk, hkm, hread⟩ := hs i
        exact ⟨k, hk, by omega, hread⟩
    intro i
    obtain ⟨k, hk, hkm, hread⟩ := ih hg' (by omega) hs' hds i
    exact ⟨k, hk, by omega, hread⟩

/-- Settles O32: the fill stores the raw words 132 to 16515, and every draw the next one. -/
theorem slotsHoldRawWordsOfTheirSeed : Obligations.SlotsHoldRawWordsOfTheirSeed := by
  intro a0 a1 a2 n s t v ys hw h hd
  rw [microSteps_of_exec_seed hw h] at hd
  refine draws_slots (seedWhole_gen a0 a1 a2 s) (by decide) (fun i => ?_) hd
  have hi := i.isLt
  exact ⟨132 + i.toNat, by omega, by omega, seedWhole_read a0 a1 a2 s i⟩

end Sys2Proof.Machine

/-! PROOFS. The output transforms (43_output_transforms.md): the magnitude of a draw, the binary64 pattern as a number,
F53's recurrence, and the commands' responses with their ranges. -/

namespace Sys2Proof.Machine

/-! ## The magnitude of a draw (R112) -/

theorem signed32_low {x : Word} (h : x.toNat < 2 ^ 31) : signed32 x = x.toNat := by
  rw [signed32, if_pos h]

theorem signed32_high {x : Word} (h : 2 ^ 31 ≤ x.toNat) : signed32 x = x.toNat - 2 ^ 32 := by
  rw [signed32, if_neg (Nat.not_lt_of_le h)]

theorem mag_low {x : Word} (h : x.toNat < 2 ^ 31) : mag x = x.toNat := by
  have hne : x ≠ 0x80000000 := by bv_omega
  rw [mag, if_neg hne, signed32_low h, Int.natAbs_natCast]

theorem mag_high {x : Word} (h : 2 ^ 31 < x.toNat) : mag x = 2 ^ 32 - x.toNat := by
  have hne : x ≠ 0x80000000 := by bv_omega
  have hx := x.isLt
  rw [mag, if_neg hne, signed32_high (Nat.le_of_lt h)]
  omega

theorem mag_middle {x : Word} (h : x.toNat = 2 ^ 31) : mag x = 2 ^ 31 - 1 := by
  have he : x = 0x80000000 := by bv_omega
  rw [mag, if_pos he]
  rfl

theorem mag_lt (x : Word) : mag x < 2 ^ 31 := by
  rcases lt_trichotomy x.toNat (2 ^ 31) with h | h | h
  · rwa [mag_low h]
  · rw [mag_middle h]
    decide
  · rw [mag_high h]
    omega

/-- Settles O33: the three lines, below, above and at 2^31, with the bound from each. -/
theorem magnitudeOfADraw : Obligations.MagnitudeOfADraw :=
  fun x => ⟨mag_low, mag_high, mag_middle, mag_lt x⟩

/-! ## The binary64 pattern (30_encoding.md R67) -/

@[simp] theorem binary64_zero (w : Nat) : binary64 0 w = 0 := rfl

theorem binary64_pos {q w : Nat} (h : q ≠ 0) : binary64 q w = 0#1 ++ (expField q w ++ fracField q) := by
  rw [binary64, if_neg h]

theorem extractLsb'_exp (e : BitVec 11) (f : BitVec 52) : (0#1 ++ (e ++ f)).extractLsb' 52 11 = e :=
  calc (0#1 ++ (e ++ f)).extractLsb' 52 11
    _ = (e ++ f).extractLsb' 52 11 := BitVec.extractLsb'_append_eq_of_add_le (by decide)
    _ = e := BitVec.extractLsb'_append_eq_left

theorem extractLsb'_frac (e : BitVec 11) (f : BitVec 52) : (0#1 ++ (e ++ f)).extractLsb' 0 52 = f :=
  calc (0#1 ++ (e ++ f)).extractLsb' 0 52
    _ = (e ++ f).extractLsb' 0 52 := BitVec.extractLsb'_append_eq_of_add_le (by decide)
    _ = f := BitVec.extractLsb'_append_eq_right

theorem msb_positive (e : BitVec 11) (f : BitVec 52) : (0#1 ++ (e ++ f)).msb = false := by
  rw [BitVec.msb_append]
  simp

/-- The position of the highest set bit lies below the width. -/
theorem log2_lt_width {q w : Nat} (hq : q ≠ 0) (h : q < 2 ^ w) : q.log2 < w :=
  (Nat.log2_lt hq).mpr h

theorem expField_toNat {q w : Nat} (hk : q.log2 < w) :
    (expField q w).toNat = 1023 + q.log2 - w := by
  rw [expField, BitVec.toNat_ofNat, Nat.mod_eq_of_lt (by omega)]

/-- The fraction is the number below its highest bit, moved to the top of the field. -/
theorem fracField_toNat {q : Nat} (hk : q.log2 ≤ 52) :
    (fracField q).toNat = (q - 2 ^ q.log2) * 2 ^ (52 - q.log2) := by
  have hlt : q - 2 ^ q.log2 < 2 ^ q.log2 := by
    have := Nat.lt_log2_self (n := q)
    rw [pow_succ] at this
    omega
  have hfit : (q - 2 ^ q.log2) * 2 ^ (52 - q.log2) < 2 ^ 52 :=
    calc (q - 2 ^ q.log2) * 2 ^ (52 - q.log2)
      _ < 2 ^ q.log2 * 2 ^ (52 - q.log2) := Nat.mul_lt_mul_of_pos_right hlt (Nat.two_pow_pos _)
      _ = 2 ^ 52 := by rw [← pow_add, Nat.add_sub_cancel' hk]
  rw [fracField, BitVec.toNat_ofNat, Nat.mod_eq_of_lt hfit]

/-- The value of a pattern of sign 0 whose exponent field is not 0. -/
theorem binary64Value_normal {b : Rsp} {e : BitVec 11} {f : BitVec 52} (hsign : b.msb = false)
    (hexp : b.extractLsb' 52 11 = e) (hfrac : b.extractLsb' 0 52 = f) (he : e ≠ 0) :
    binary64Value b = (1 + (f.toNat : ℚ) / 2 ^ 52) * 2 ^ ((e.toNat : Int) - 1023) := by
  simp only [binary64Value, hsign, hexp, hfrac, if_neg he, Bool.false_eq_true, if_false]

theorem binary64Value_zero : binary64Value 0 = 0 := by
  simp [binary64Value]

/-- The significand and the power of two of `q / 2^w` multiply to it. -/
theorem significand_mul_pow {q k w : Nat} (hk : k ≤ 52) (hkq : 2 ^ k ≤ q) :
    (1 + (((q - 2 ^ k) * 2 ^ (52 - k) : Nat) : ℚ) / 2 ^ 52) * (2 : ℚ) ^ ((k : Int) - w) = (q : ℚ) / 2 ^ w := by
  have hsplit : (2 : ℚ) ^ 52 = 2 ^ k * 2 ^ (52 - k) := by rw [← pow_add, Nat.add_sub_cancel' hk]
  have hpk : (2 : ℚ) ^ k ≠ 0 := by positivity
  have hp : (2 : ℚ) ^ (52 - k) ≠ 0 := by positivity
  rw [zpow_sub₀ two_ne_zero, zpow_natCast, zpow_natCast, hsplit]
  push_cast [hkq]
  field_simp
  ring

theorem binary64_value {q w : Nat} (hq : q < 2 ^ w) (hw : w ≤ 53) :
    binary64Value (binary64 q w) = (q : ℚ) / 2 ^ w := by
  by_cases h0 : q = 0
  · rw [h0, binary64_zero, binary64Value_zero]
    simp
  · have hk := log2_lt_width h0 hq
    have hexp := expField_toNat hk
    have hne : expField q w ≠ 0 := by
      intro hz
      rw [hz] at hexp
      simp at hexp
      omega
    have hpow : ((expField q w).toNat : Int) - 1023 = (q.log2 : Int) - w := by omega
    rw [binary64_pos h0, binary64Value_normal (msb_positive _ _) (extractLsb'_exp _ _) (extractLsb'_frac _ _) hne, hpow,
      fracField_toNat (by omega)]
    exact significand_mul_pow (by omega) (Nat.log2_self_le h0)

/-- Settles O39: the value from the exponent and fraction fields; the highest bit of `q` lies at 0 to `w - 1`. -/
theorem binary64PatternIsExact : Obligations.Binary64PatternIsExact := by
  intro q w hq hw
  refine ⟨binary64_value hq hw, ?_, fun h0 => ?_⟩
  · by_cases h0 : q = 0
    · rw [h0, binary64_zero]
      rfl
    · rw [binary64_pos h0, msb_positive]
  · have hk := log2_lt_width h0 hq
    rw [binary64_pos h0, extractLsb'_exp, expField_toNat hk]
    omega

/-! ## F53's recurrence (R115) -/

/-- One update in the two forms: of a number whose lowest bit is 0 the halving is exact. -/
theorem f53Update_exact {q : Nat} (x : Word) (h : 2 ∣ q) :
    ((f53Update q x : Nat) : ℚ) / 2 ^ 53 = fracUpdate ((q : ℚ) / 2 ^ 53) x := by
  obtain ⟨m, rfl⟩ := h
  have hhalf : 2 * m / 2 = m := by omega
  rw [f53Update, fracUpdate]
  split_ifs
  · rw [hhalf]
    push_cast
    ring
  · rw [hhalf]
    push_cast
    ring
  · rfl

theorem f53Update_lt {q : Nat} (x : Word) (h : q < 2 ^ 53) : f53Update q x < 2 ^ 53 := by
  rw [f53Update]
  split_ifs <;> omega

/-- An update uses up one of the low zero bits. -/
theorem f53Update_dvd {q n : Nat} (x : Word) (hn : n ≤ 52) (h : 2 ^ (n + 1) ∣ q) : 2 ^ n ∣ f53Update q x := by
  have hhalf : 2 ^ n ∣ q / 2 := by
    rw [pow_succ] at h
    exact Nat.dvd_div_of_mul_dvd (Nat.mul_comm _ _ ▸ h)
  rw [f53Update]
  split_ifs
  · exact Nat.dvd_add hhalf (pow_dvd_pow 2 hn)
  · exact hhalf
  · exact dvd_trans (pow_dvd_pow 2 (Nat.le_succ n)) h

/-- The two forms from any start with as many low zero bits as there are draws to come. -/
theorem foldl_f53Update {n q : Nat} {xs : List Word} (hlen : xs.length ≤ n) (hn : n ≤ 53) (hdvd : 2 ^ n ∣ q)
    (hq : q < 2 ^ 53) :
    ((xs.foldl f53Update q : Nat) : ℚ) / 2 ^ 53 = xs.foldl fracUpdate ((q : ℚ) / 2 ^ 53) ∧
      xs.foldl f53Update q < 2 ^ 53 := by
  induction xs generalizing n q with
  | nil => exact ⟨rfl, hq⟩
  | cons x xs ih =>
    rw [List.length_cons] at hlen
    obtain ⟨m, rfl⟩ : ∃ m, n = m + 1 := ⟨n - 1, by omega⟩
    have heven : 2 ∣ q := dvd_trans (dvd_pow_self 2 (Nat.succ_ne_zero m)) hdvd
    rw [List.foldl_cons, List.foldl_cons, ← f53Update_exact x heven]
    exact ih (by omega) (by omega) (f53Update_dvd x (by omega) hdvd) (f53Update_lt x hq)

/-- Settles O40: from 0, which has all low zero bits, through at most 53 updates. -/
theorem f53IntegerFormIsTheRecurrence : Obligations.F53IntegerFormIsTheRecurrence := by
  intro xs hlen
  have h := foldl_f53Update (n := 53) (q := 0) hlen (le_refl _) (dvd_zero _) (by decide)
  simpa [f53Of] using h

/-! ## The commands' responses -/

/-- Settles O34. -/
theorem u01AnswersTheMagnitude : Obligations.U01AnswersTheMagnitude := by
  intro s y hs hread
  rw [exec_u01_eq, transform_ok (draw_written hs hread), u01Of]

/-- Settles O35: a ready engine answers all 53 draws. -/
theorem f53AnswersFiftyThreeDraws : Obligations.F53AnswersFiftyThreeDraws := by
  intro s hs
  obtain ⟨xs, t, hd, -⟩ := draws_ready 53 s hs
  refine ⟨xs, t, hd, draws_length hd, ?_⟩
  rw [exec_f53_eq, execF53_ok hd]

/-- The scaled magnitude lies below the limit, since the magnitude is below 2^31. -/
theorem scaled_lt (x : Word) {limit : Word} (h : limit ≠ 0) : mag x * limit.toNat / 2 ^ 31 < limit.toNat := by
  have hpos : 0 < limit.toNat := Nat.pos_of_ne_zero fun h0 => h (BitVec.eq_of_toNat_eq h0)
  exact Nat.div_lt_of_lt_mul (Nat.mul_lt_mul_of_pos_right (mag_lt x) hpos)

/-- The exact product fits a word. -/
theorem scaled_toNat (x : Word) {limit : Word} (h : limit ≠ 0) :
    (BitVec.ofNat 32 (mag x * limit.toNat / 2 ^ 31)).toNat = mag x * limit.toNat / 2 ^ 31 := by
  rw [BitVec.toNat_ofNat, Nat.mod_eq_of_lt (Nat.lt_trans (scaled_lt x h) limit.isLt)]

/-- Settles O36: with a limit BND is a transform of one draw, whose response is the exact product shifted right. -/
theorem bndAnswersTheScaledMagnitude : Obligations.BndAnswersTheScaledMagnitude := by
  intro s limit
  simp only [exec_bnd_eq]
  refine ⟨fun y hs hl hread => ?_, fun hs hl => hl ▸ execBnd_zero hs, execBnd_unseeded limit⟩
  refine ⟨BitVec.ofNat 32 (mag y * limit.toNat / 2 ^ 31), ?_, scaled_toNat y hl, ?_⟩
  · rw [execBnd_pos hs hl, transform_ok (draw_written hs hread), bndOf, zext64]
  · rw [scaled_toNat y hl]
    exact scaled_lt y hl

/-- A magnitude of at least one half, in the draw's own numbers (section 6). -/
theorem half_le_mag_iff (x : Word) : 2 ^ 30 ≤ mag x ↔ 0x40000000 ≤ x.toNat ∧ x.toNat ≤ 0xC0000000 := by
  rcases lt_trichotomy x.toNat (2 ^ 31) with h | h | h
  · rw [mag_low h]
    omega
  · rw [mag_middle h]
    omega
  · have hx := x.isLt
    rw [mag_high h]
    omega

/-- Settles O38. -/
theorem bitIsOneForTheMiddleHalf : Obligations.BitIsOneForTheMiddleHalf := by
  intro s y hs hread
  rw [exec_bit_eq, transform_ok (draw_written hs hread), bitOf]
  simp only [half_le_mag_iff]

/-! ## The ranges (section 7) -/

theorem binary64_unit_interval {q w : Nat} (hq : q < 2 ^ w) (hw : w ≤ 53) :
    0 ≤ binary64Value (binary64 q w) ∧ binary64Value (binary64 q w) < 1 := by
  have hlt : (q : ℚ) < 2 ^ w := by exact_mod_cast hq
  rw [binary64_value hq hw]
  exact ⟨by positivity, (div_lt_one (by positivity)).mpr hlt⟩

theorem bndOf_toNat (x : Word) {limit : Word} (h : limit ≠ 0) :
    (bndOf limit x).toNat = mag x * limit.toNat / 2 ^ 31 := by
  rw [bndOf, zext64, BitVec.toNat_setWidth_of_le (by decide), scaled_toNat x h]

theorem bitsOf_toNat (n : BitVec 8) (x : Word) : (bitsOf n x).toNat = (shr x (32 - n.toNat)).toNat := by
  rw [bitsOf, zext64, BitVec.toNat_setWidth_of_le (by decide)]

theorem bitOf_cases (x : Word) : bitOf x = 0 ∨ bitOf x = 1 := by
  rw [bitOf]
  split_ifs
  · exact .inr rfl
  · exact .inl rfl

/-- Settles O41: a transform that answers has the response of a draw, and F53 that of 53 draws; each is in its range. -/
theorem transformsStayInRange : Obligations.TransformsStayInRange := by
  intro s t
  refine ⟨fun h => ?_, fun h => ?_, fun limit h => ?_, fun n h => ?_, fun h => ?_⟩
  · obtain ⟨x, -, -, rfl⟩ := transform_cases h
    exact ⟨u01Of x, rfl, binary64_unit_interval (mag_lt x) (by decide)⟩
  · obtain ⟨xs, u, hd, rfl⟩ := execF53_cases h
    obtain ⟨-, hlt⟩ := f53IntegerFormIsTheRecurrence xs (le_of_eq (draws_length hd))
    exact ⟨_, rfl, binary64_unit_interval hlt (le_refl _)⟩
  · obtain ⟨hl, h⟩ := execBnd_cases h
    obtain ⟨x, -, -, rfl⟩ := transform_cases h
    refine ⟨bndOf limit x, rfl, ?_⟩
    rw [bndOf_toNat x hl]
    exact scaled_lt x hl
  · obtain ⟨-, h31, h⟩ := execBits_cases h
    obtain ⟨x, -, -, rfl⟩ := transform_cases h
    refine ⟨bitsOf n x, rfl, ?_⟩
    rw [bitsOf_toNat]
    exact shr_sub_toNat_lt x (by omega)
  · obtain ⟨x, -, -, rfl⟩ := transform_cases h
    rcases bitOf_cases x with h0 | h1
    · exact .inl (congrArg some h0)
    · exact .inr (congrArg some h1)

end Sys2Proof.Machine

/-! PROOFS. Frames, faults, completion and responses of the commands (41_shuffle_step.md, 43_output_transforms.md
section 1, 60_exceptions.md sections 2 and 3), and the two dumps (30_encoding.md section 9). -/

namespace Sys2Proof.Machine

/-! ## The frame of the drawing commands -/

theorem draws_gen {n : Nat} {s t : State} {ys : List Word} (h : draws n s = .ok (ys, t)) :
    t.gen = Gen.iter n s.gen := by
  induction n generalizing s ys with
  | zero => cases h; rfl
  | succ n ih =>
    obtain ⟨x, s1, zs, hd, hds, rfl⟩ := draws_succ_cases h
    obtain ⟨-, -, rfl⟩ := draw_cases hd
    exact ih hds

theorem drawSlots_succ {n : Nat} {s s1 : State} {x : Word} (h : draw s = .ok (x, s1)) :
    drawSlots (n + 1) s = slotIndex s.hist.pprev :: drawSlots n s1 := by
  rw [drawSlots, h]

/-- A slot that no draw selects keeps its word. -/
theorem draws_read_other {n : Nat} {s t : State} {ys : List Word} {j : Index} (h : draws n s = .ok (ys, t))
    (hj : j ∉ drawSlots n s) : t.table.read j = s.table.read j := by
  induction n generalizing s ys with
  | zero => cases h; rfl
  | succ n ih =>
    obtain ⟨x, s1, zs, hd, hds, rfl⟩ := draws_succ_cases h
    rw [drawSlots_succ hd, List.mem_cons, not_or] at hj
    obtain ⟨hfirst, hlater⟩ := hj
    obtain ⟨-, -, rfl⟩ := draw_cases hd
    rw [ih hds hlater, afterDraw_table, Memory.read_write_other _ _ hfirst]

/-- Settles O43: a command is its draws and a response. -/
theorem drawingCommandsChangeOnlyWhatTheyDraw : Obligations.DrawingCommandsChangeOnlyWhatTheyDraw := by
  intro i s t hop h
  obtain ⟨hphase, hcnt, hseeded, hbusy, hhost⟩ := exec_frame hop h
  obtain ⟨xs, u, r, hd, rfl⟩ := exec_cases hop h
  have hgen := draws_gen hd
  have hother (j : Index) (hj : j ∉ drawSlots (drawCount i) s) := draws_read_other hd hj
  refine ⟨hgen, hother, hphase, hcnt, hseeded, hbusy, hhost, fun h0 => ?_⟩
  rw [h0] at hd
  cases hd
  exact ⟨rfl, rfl⟩

/-! ## A transform and the NEXT commands of its draws -/

theorem execAll_cons {i : Instr} {is : List Instr} {s s1 t : State} {rs : List (Option Rsp)}
    (h : exec i s = .next s1) (hs : execAll is s1 = .next (rs, t)) :
    execAll (i :: is) s = .next (s1.rsp :: rs, t) := by
  simp [execAll, h, hs]

/-- Draws that answer, as NEXT commands: the same state but for the response port. -/
theorem execAll_next_of_draws {n : Nat} {s t : State} {ys : List Word} (h : draws n s = .ok (ys, t)) :
    ∃ rs r, execAll (List.replicate n .next) s = .next (rs, t.setRsp r) := by
  induction n generalizing s t ys with
  | zero => cases h; exact ⟨[], s.rsp, rfl⟩
  | succ n ih =>
    obtain ⟨x, s1, zs, hd, hds, rfl⟩ := draws_succ_cases h
    have hport : draws n (s1.setRsp (some (zext64 x))) = .ok (zs, t.setRsp (some (zext64 x))) := by
      rw [draws_setRsp, hds]
      rfl
    obtain ⟨rs, r, hrest⟩ := ih hport
    have hnext : exec .next s = .next (s1.setRsp (some (zext64 x))) := by rw [exec_next_eq, transform_ok hd]
    exact ⟨_, r, execAll_cons hnext hrest⟩

/-- Settles O42: the transform's draws, made by NEXT commands instead. -/
theorem transformsLeaveWhatNextsLeave : Obligations.TransformsLeaveWhatNextsLeave := by
  intro i s t hpos h
  have hop : i.opcode ≠ 0x01 := by
    intro hseed
    obtain ⟨a0, a1, a2, rfl⟩ := opcode_eq_seed hseed
    cases hpos
  obtain ⟨xs, u, r, hd, rfl⟩ := exec_cases hop h
  obtain ⟨rs, r', hnexts⟩ := execAll_next_of_draws hd
  exact ⟨rs, u.setRsp r', hnexts, rfl⟩

/-! ## Faults (60_exceptions.md) -/

theorem draws_succ_fault {n : Nat} {s : State} {f : Fault} (h : draw s = .error f) :
    draws (n + 1) s = .error f := by
  simp [draws, h]

/-- Everything several draws that fault can have done: Unseeded, from an engine that is not ready. -/
theorem draws_fault {n : Nat} {s : State} {f : Fault} (h : draws n s = .error f) :
    f = .unseeded ∧ ¬ s.ready := by
  constructor
  · induction n generalizing s with
    | zero => cases h
    | succ n ih =>
      cases hd : draw s with
      | error e =>
        rw [draws_succ_fault hd] at h
        cases h
        exact draw_fault hd
      | ok p =>
        obtain ⟨x, s1⟩ := p
        cases hds : draws n s1 with
        | error e =>
          simp only [draws, hd, hds] at h
          cases h
          exact ih hds
        | ok q =>
          obtain ⟨ys, t⟩ := q
          rw [draws_succ hd hds] at h
          cases h
  · intro hready
    obtain ⟨xs, t, hok, -⟩ := draws_ready n s hready
    rw [hok] at h
    cases h

theorem not_ready {s : State} (h : ¬ s.ready) : s.seeded = false ∨ ¬ s.full := by
  rcases not_and_or.mp h with hs | hfull
  · exact .inl (by simpa using hs)
  · exact .inr hfull

theorem transform_fault_unseeded {g : Word → Rsp} {s : State} {f : Fault} (h : transform g s = .fault f) :
    f = .unseeded ∧ (s.seeded = false ∨ ¬ s.full) := by
  obtain ⟨hf, hready⟩ := draws_fault (draws_succ_fault (n := 0) (transform_fault_cases h))
  exact ⟨hf, not_ready hready⟩

theorem execF53_fault_unseeded {s : State} {f : Fault} (h : execF53 s = .fault f) :
    f = .unseeded ∧ (s.seeded = false ∨ ¬ s.full) := by
  cases hd : draws f53Steps s with
  | error e =>
    rw [execF53_fault hd] at h
    cases h
    obtain ⟨hf, hready⟩ := draws_fault hd
    exact ⟨hf, not_ready hready⟩
  | ok p =>
    obtain ⟨xs, u⟩ := p
    rw [execF53_ok hd] at h
    cases h

theorem execRdtb_fault_unseeded {i : Index} {s : State} {f : Fault} (h : execRdtb i s = .fault f) :
    f = .unseeded ∧ (s.seeded = false ∨ ¬ s.full) := by
  cases hs : s.seeded with
  | false =>
    rw [execRdtb_unseeded i hs] at h
    cases h
    exact ⟨rfl, .inl rfl⟩
  | true =>
    cases hr : s.table.read i with
    | none =>
      rw [execRdtb_unwritten hr] at h
      cases h
      refine ⟨rfl, .inr fun hfull => ?_⟩
      have hsome := hfull i
      rw [hr] at hsome
      cases hsome
    | some v => rw [execRdtb_written hs hr] at h; cases h

/-- Settles O44: command by command; the operand faults come after the test of `seeded`. -/
theorem faultsAreOnlyTheListedOnes : Obligations.FaultsAreOnlyTheListedOnes := by
  intro i s f h
  cases i with
  | seed a0 a1 a2 => cases h
  | next => exact ⟨by decide, by decide, .inl (transform_fault_unseeded h)⟩
  | u01 => exact ⟨by decide, by decide, .inl (transform_fault_unseeded h)⟩
  | f53 => exact ⟨by decide, by decide, .inl (execF53_fault_unseeded h)⟩
  | bnd limit =>
    refine ⟨by simp [Instr.opcode], by simp [Instr.opcode], ?_⟩
    rw [exec_bnd_eq] at h
    cases hs : s.seeded with
    | false =>
      rw [execBnd_unseeded limit hs] at h
      cases h
      exact .inl ⟨rfl, .inl rfl⟩
    | true =>
      by_cases hl : limit = 0
      · rw [hl, execBnd_zero hs] at h
        cases h
        exact .inr (.inl ⟨rfl, by rw [hl], rfl⟩)
      · rw [execBnd_pos hs hl] at h
        rw [← hs]
        exact .inl (transform_fault_unseeded h)
  | bits n =>
    refine ⟨by simp [Instr.opcode], by simp [Instr.opcode], ?_⟩
    rw [exec_bits_eq] at h
    cases hs : s.seeded with
    | false =>
      rw [execBits_unseeded n hs] at h
      cases h
      exact .inl ⟨rfl, .inl rfl⟩
    | true =>
      by_cases hn : n = 0 ∨ 32 ≤ n.toNat
      · rw [execBits_out_of_range hs hn] at h
        cases h
        exact .inr (.inr ⟨n, rfl, rfl, hn, rfl⟩)
      · rw [execBits, if_neg (by simp [hs]), if_neg hn] at h
        rw [← hs]
        exact .inl (transform_fault_unseeded h)
  | bit => exact ⟨by decide, by decide, .inl (transform_fault_unseeded h)⟩
  | rdst sel => exact absurd h (exec_rdst_ne_fault sel s f)
  | rdtb index => exact ⟨by simp [Instr.opcode], by simp [Instr.opcode], .inl (execRdtb_fault_unseeded h)⟩

/-- Settles O45: the drawing commands by their first draw, the others by their first test. -/
theorem unseededComesBeforeOperandFaults : Obligations.UnseededComesBeforeOperandFaults := by
  intro i s hs hseed hrdst
  have hdraw : draw s = .error .unseeded := draw_unseeded hs
  cases i with
  | seed a0 a1 a2 => exact absurd rfl hseed
  | next => exact transform_fault hdraw
  | u01 => exact transform_fault hdraw
  | f53 => exact execF53_fault (draws_succ_fault (n := 52) hdraw)
  | bnd limit => exact execBnd_unseeded limit hs
  | bits n => exact execBits_unseeded n hs
  | bit => exact transform_fault hdraw
  | rdst sel => exact absurd rfl hrdst
  | rdtb index => exact execRdtb_unseeded index hs

/-! ## Completion on a ready engine -/

theorem transform_ready (f : Word → Rsp) {s : State} (h : s.ready) : ∃ t, transform f s = .next t := by
  obtain ⟨hs, hfull⟩ := h
  obtain ⟨x, -, hd⟩ := draw_full hs hfull
  exact ⟨_, transform_ok hd⟩

/-- A legal selector names a register (R63). -/
theorem regOfSel_isSome {sel : BitVec 3} (h : selectorOk sel = true) : (regOfSel sel).isSome = true := by
  revert sel
  decide

/-- On a ready engine every command with legal operands answers. -/
theorem exec_ready {i : Instr} {s : State} (hr : s.ready) (hwf : i.wellFormed = true) (hbnd : i ≠ .bnd 0)
    (hbits : ∀ n : BitVec 8, i = .bits n → 1 ≤ n.toNat ∧ n.toNat ≤ 31) : ∃ t, exec i s = .next t := by
  obtain ⟨hs, hfull⟩ := hr
  cases i with
  | seed a0 a1 a2 => exact ⟨_, execSeed_eq a0 a1 a2 s⟩
  | next => exact transform_ready zext64 ⟨hs, hfull⟩
  | u01 => exact transform_ready u01Of ⟨hs, hfull⟩
  | f53 =>
    obtain ⟨xs, u, hd, -⟩ := draws_ready f53Steps s ⟨hs, hfull⟩
    exact ⟨_, execF53_ok hd⟩
  | bnd limit =>
    have hl : limit ≠ 0 := fun h => hbnd (by rw [h])
    rw [exec_bnd_eq, execBnd_pos hs hl]
    exact transform_ready (bndOf limit) ⟨hs, hfull⟩
  | bits n =>
    obtain ⟨h1, h31⟩ := hbits n rfl
    rw [exec_bits_eq, execBits_in_range hs h1 h31]
    exact transform_ready (bitsOf n) ⟨hs, hfull⟩
  | bit => exact transform_ready bitOf ⟨hs, hfull⟩
  | rdst sel =>
    obtain ⟨x, hx⟩ := Option.isSome_iff_exists.mp (regOfSel_isSome hwf)
    exact ⟨_, exec_rdst_named hx s⟩
  | rdtb index =>
    obtain ⟨v, hv⟩ := Option.isSome_iff_exists.mp (hfull index)
    exact ⟨_, execRdtb_written hs hv⟩

/-- Draws from a ready engine leave it ready. -/
theorem ready_of_draws {n : Nat} {s t : State} {ys : List Word} (hr : s.ready) (h : draws n s = .ok (ys, t)) :
    t.ready := by
  obtain ⟨xs, u, hd, hu⟩ := draws_ready n s hr
  rw [hd] at h
  cases h
  exact hu

/-- Settles O46: the command answers, and is then its draws and a response. -/
theorem everyCommandCompletesOnAReadyEngine : Obligations.EveryCommandCompletesOnAReadyEngine := by
  intro i s hr hwf hbnd hbits
  obtain ⟨t, h⟩ := exec_ready hr hwf hbnd hbits
  refine ⟨t, h, fun hop => ⟨?_, (exec_rsp_isSome h).mpr hop⟩⟩
  obtain ⟨xs, u, r, hd, rfl⟩ := exec_cases hop h
  have hu := ready_of_draws hr hd
  exact hu

/-! ## Responses that are words -/

theorem zext64_lt (v : Word) : (zext64 v).toNat < 2 ^ 32 := by
  rw [zext64, BitVec.toNat_setWidth_of_le (by decide)]
  exact v.isLt

theorem transform_rsp {f : Word → Rsp} {s t : State} {r : Rsp} (h : transform f s = .next t)
    (hr : t.rsp = some r) : ∃ x, r = f x := by
  obtain ⟨x, -, -, rfl⟩ := transform_cases h
  cases hr
  exact ⟨x, rfl⟩

/-- Settles O47: each response but those of the two fractions is a zero-extended word; BIT's is 0 or 1. -/
theorem wordResponsesAreZeroExtended : Obligations.WordResponsesAreZeroExtended := by
  intro i s t r h hr hu01 hf53
  cases i with
  | seed a0 a1 a2 =>
    rw [exec_seed_eq, execSeed_eq] at h
    cases h
    cases hr
  | next =>
    obtain ⟨x, rfl⟩ := transform_rsp h hr
    exact ⟨zext64_lt _, nofun⟩
  | u01 => exact absurd rfl hu01
  | f53 => exact absurd rfl hf53
  | bnd limit =>
    obtain ⟨-, h⟩ := execBnd_cases h
    obtain ⟨x, rfl⟩ := transform_rsp h hr
    exact ⟨zext64_lt _, nofun⟩
  | bits n =>
    obtain ⟨-, -, h⟩ := execBits_cases h
    obtain ⟨x, rfl⟩ := transform_rsp h hr
    exact ⟨zext64_lt _, nofun⟩
  | bit =>
    obtain ⟨x, rfl⟩ := transform_rsp h hr
    rcases bitOf_cases x with hx | hx
    · rw [hx]; decide
    · rw [hx]; decide
  | rdst sel =>
    obtain ⟨x, -, rfl⟩ := exec_rdst_cases h
    cases hr
    exact ⟨zext64_lt _, nofun⟩
  | rdtb index =>
    obtain ⟨v, -, -, rfl⟩ := execRdtb_cases h
    cases hr
    exact ⟨zext64_lt _, nofun⟩

/-! ## The dumps -/

/-- RDTB at each of a list of slots, on a ready engine: the slots' words in order, and nothing moved but the port. -/
theorem execAll_rdtb {s : State} (hr : s.ready) (is : List Index) :
    ∃ t, execAll (is.map .rdtb) s = .next (is.map (fun i => (s.table.read i).map zext64), t) ∧
      t = s.setRsp t.rsp := by
  induction is generalizing s with
  | nil => exact ⟨s, rfl, rfl⟩
  | cons i is ih =>
    obtain ⟨hs, hfull⟩ := hr
    obtain ⟨v, hv⟩ := Option.isSome_iff_exists.mp (hfull i)
    have hexec : exec (.rdtb i) s = .next (s.setRsp (some (zext64 v))) := execRdtb_written hs hv
    obtain ⟨t, hrest, ht⟩ := ih (s := s.setRsp (some (zext64 v))) ⟨hs, hfull⟩
    refine ⟨t, ?_, ht⟩
    rw [List.map_cons, execAll_cons hexec hrest, List.map_cons, hv]
    rfl

/-- The index list of the table dump, as slots. -/
theorem expand_dumpTable :
    expand .dumpTable = ((List.range tableSize).map (BitVec.ofNat 14)).map .rdtb := by
  rw [List.map_map]
  rfl

theorem dumpTable_responses_getElem? (f : Index → Option Rsp) (i : Index) :
    (((List.range tableSize).map (BitVec.ofNat 14)).map f)[i.toNat]? = some (f i) := by
  have hi : i.toNat < tableSize := i.isLt
  rw [List.getElem?_map, List.getElem?_map, List.getElem?_range hi]
  simp

/-- The table dump on a ready engine. -/
theorem execAll_dumpTable {s : State} (hr : s.ready) :
    ∃ rs t, execAll (expand .dumpTable) s = .next (rs, t) ∧ rs.length = tableSize ∧ t = s.setRsp t.rsp ∧
      ∀ i : Index, rs[i.toNat]? = some ((s.table.read i).map zext64) := by
  obtain ⟨t, hdump, ht⟩ := execAll_rdtb hr ((List.range tableSize).map (BitVec.ofNat 14))
  rw [← expand_dumpTable] at hdump
  refine ⟨_, t, hdump, ?_, ht, dumpTable_responses_getElem? _⟩
  rw [List.length_map, List.length_map, List.length_range]

/-- The register dump: each read names its register, past the responses before it. -/
theorem execAll_dumpState (s : State) :
    execAll (expand .dumpState) s = .next
      ([some (zext64 s.gen.s1), some (zext64 s.gen.s2), some (zext64 s.gen.s3), some (zext64 s.hist.out),
        some (zext64 s.hist.prev), some (zext64 s.hist.pprev)], s.setRsp (some (zext64 s.hist.pprev))) := by
  simp only [expand, execAll, exec_rdst_named (sel := 0) (x := .s1) rfl, exec_rdst_named (sel := 1) (x := .s2) rfl,
    exec_rdst_named (sel := 2) (x := .s3) rfl, exec_rdst_named (sel := 3) (x := .out) rfl,
    exec_rdst_named (sel := 4) (x := .prev) rfl, exec_rdst_named (sel := 5) (x := .pprev) rfl, State.setRsp_setRsp,
    State.setRsp_rsp, readReg_setRsp]
  simp only [readReg]

/-- Settles O51: six named registers; and RDTB at each slot. -/
theorem dumpsListRegistersAndSlots : Obligations.DumpsListRegistersAndSlots :=
  fun s hr => ⟨execAll_dumpState s, execAll_dumpTable hr⟩

end Sys2Proof.Machine
